-- ==== Sys2Proof/Word.lean ====
section
/-! DEFINITION. The word types of the frame codec: bytes, host words, and the wire formats read as one number
(00_scope.md R8, R9; 30_encoding.md R71, R78, R80). -/

namespace Sys2Proof

/-- A byte is 8 bits (R8). -/
abbrev Byte := BitVec 8

/-- A host word, format HW32 (R80). -/
abbrev HostWord := BitVec 32

/-- An outbound frame, format OUT6, read as the number `F` of R71: frame byte 0 is `F[47:40]`. -/
abbrev FrameWord := BitVec 48

/-- A query result, format QRES7, read as the number `G` of R78: response byte 0 is `G[55:48]`. -/
abbrev ResultWord := BitVec 56

/-- The width of RES_VAL (10_state.md R20). -/
abbrev Value := BitVec 24

end Sys2Proof
end

