-- ==== Sys2Proof/Config.lean ====
section
/-! DEFINITION. What is fixed for an instance of the block: the hardwired constants (10_state.md R35), the shape of the
parameters a model takes as arguments (00_scope.md R7; their defaults stand in Decode.lean), and the free values
(93_implementation_defined.md U2, U3). -/

namespace Sys2Proof

/-- The 15 request-type names, in the listing order of 30_encoding.md R72 and R74. -/
inductive ReqName where
  | toggleLoad | setCurrent | setCutoffVoltage | setTimeout | resetCounters
  | loadEnabled | voltageReading | currentReading | elapsedTime | capacityMilliAmpHours
  | capacityMilliWattHours | mosfetTemperature | currentSetting | cutoffVoltageSetting | timerSetting
  deriving DecidableEq, Repr

/-- The three kinds of query value (R75). -/
inductive ValueKind where
  | bool | u24 | dur
  deriving DecidableEq, Repr

namespace Config

/-! The hardwired constants of R35; none is writable or configurable. -/

/-- TX_H0, outbound header byte 0. -/
def txH0 : Byte := 0xB1
/-- TX_H1, outbound header byte 1. -/
def txH1 : Byte := 0xB2
/-- TX_T0, outbound trailer. -/
def txT0 : Byte := 0xB6
/-- ACK_OK_BYTE, the command success acknowledgement. -/
def ackOkByte : Byte := 0x6F
/-- RX_H0, query result header byte 0. -/
def rxH0 : Byte := 0xCA
/-- RX_H1, query result header byte 1. -/
def rxH1 : Byte := 0xCB
/-- RX_T0, query result trailer byte 0. -/
def rxT0 : Byte := 0xCE
/-- RX_T1, query result trailer byte 1. -/
def rxT1 : Byte := 0xCF
/-- CMD_LEN, the length of a command response. -/
def cmdLen : BitVec 3 := 1
/-- QRY_LEN, the length of a query response. -/
def qryLen : BitVec 3 := 7
/-- FRAME_LEN, the length of an outbound frame. -/
def frameLen : BitVec 3 := 6

/-- RETRY_COUNT, the TOTAL attempts the host makes on InvalidResponse, the first included (R7, 90_conflicts.md C4).
A parameter of the host contract only; no rule of the block reads it. -/
def retryCount : Nat := 3

/-- What a host read of `RXBUF[i]` gives at epoch `n` where the element holds no byte of the current or last capture
(U2: any value). It has no body: no proof can see it. Assumption log 5. -/
opaque uncapturedByte : (n i : Nat) → Byte

/-- What a host read of FMT_P0 (`i = 0`) or FMT_P1 (`i = 1`) gives at epoch `n` while FMT_VALID = 0 (U3: any value).
Assumption log 5. -/
opaque unformattedByte : (n i : Nat) → Byte

end Config

/-- The parameters TYPE_CODE and QUERY_KIND (R7), as plain data. `typeCode` lists the type byte of each name in the
order of `ReqName`; `queryKind` lists the kinds of the query type bytes 0x10 to 0x19. Assumption log 3. -/
structure Params where
  typeCode  : Vector Byte 15
  queryKind : Vector ValueKind 10
  deriving DecidableEq, Repr

end Sys2Proof
end

