-- ==== Sys2Proof/Syntax.lean ====
section
/-! DEFINITION. The instructions: one constructor for each row of spec/opcode_table.json, in the table's order. The
channel events TXPOP and RXBYTE and the RESET input have no encoding (30_encoding.md R87) and no row; they are inputs of
the machine (Machine/State.lean). -/

namespace Sys2Proof

/-- One constructor per row of the opcode table. Rows of format OUT6 are request types, of format HW32 host words, of
formats ACK1 and QRES7 responses (30_encoding.md R70, R77, R78, R80). -/
inductive Instr where
  /-- R100; payload bytes as the host supplies them. -/
  | toggleLoad (p0 p1 : Byte)
  /-- R101 -/
  | setCurrent (p0 p1 : Byte)
  /-- R102 -/
  | setCutoffVoltage (p0 p1 : Byte)
  /-- R103 -/
  | setTimeout (p0 p1 : Byte)
  /-- R104 -/
  | resetCounters (p0 p1 : Byte)
  /-- R110; a query's payload is always `00 00`. -/
  | loadEnabled
  /-- R111 -/
  | voltageReading
  /-- R112 -/
  | currentReading
  /-- R113 -/
  | elapsedTime
  /-- R114 -/
  | capacityMilliAmpHours
  /-- R115 -/
  | capacityMilliWattHours
  /-- R116 -/
  | mosfetTemperature
  /-- R117 -/
  | currentSetting
  /-- R118 -/
  | cutoffVoltageSetting
  /-- R119 -/
  | timerSetting
  /-- R130 -/
  | nop
  /-- R132; `t = w[23:16]`, `p0 = w[15:8]`, `p1 = w[7:0]` (R82). -/
  | encode (t p0 p1 : Byte)
  /-- R138 -/
  | abort
  /-- R175; `h = w[14:0]` hundredths (R83). -/
  | fmtf (h : BitVec 15)
  /-- R177; `sec = w[23:0]` whole seconds (R84). -/
  | fmtd (sec : BitVec 24)
  /-- R140, HOP 101; `rest = w[28:0]`. -/
  | reserved101 (rest : BitVec 29)
  /-- R140, HOP 110. -/
  | reserved110 (rest : BitVec 29)
  /-- R140, HOP 111. -/
  | reserved111 (rest : BitVec 29)
  /-- R155: the response byte 0x6F. -/
  | ackOk
  /-- R155: any other response byte. -/
  | ackErr (raw : Byte)
  /-- R156, R157: a query result with its four markers right. -/
  | queryResult (v0 v1 v2 : Byte)
  deriving DecidableEq, Repr

end Sys2Proof
end

