-- ==== Sys2Proof/WellFormed.lean ====
section
/-! DEFINITION. Which instructions have an encoding of their own. The operand widths are in the types, so one check is
left: ACK_ERR is "every byte value except 0x6F" (30_encoding.md R77). An operand that the block answers with a fault (an
undefined type byte of ENCODE, FMTF above 25599) is well-formed: the host can issue it. -/

namespace Sys2Proof

/-- Every operand is one its row's encoding admits. -/
def Instr.wellFormed : Instr → Bool
  | .toggleLoad _ _ | .setCurrent _ _ | .setCutoffVoltage _ _ | .setTimeout _ _ | .resetCounters _ _ => true
  | .loadEnabled | .voltageReading | .currentReading | .elapsedTime | .capacityMilliAmpHours => true
  | .capacityMilliWattHours | .mosfetTemperature | .currentSetting | .cutoffVoltageSetting | .timerSetting => true
  | .nop | .encode _ _ _ | .abort | .fmtf _ | .fmtd _ => true
  | .reserved101 _ | .reserved110 _ | .reserved111 _ => true
  | .ackOk => true
  | .ackErr raw => raw != Config.ackOkByte
  | .queryResult _ _ _ => true

end Sys2Proof
end

