-- ==== Sys2Proof/Decode.lean ====
section
/-! DEFINITION. The decoder, total on every word of the four formats and rejecting by name, and the encoder
(30_encoding.md R70 to R86). Table words are numbered as spec/opcode_table.json numbers them: each row is ONE number,
`F` (R71) for OUT6 and `G` (R78) for QRES7, with frame byte 0 in its top byte. Assumption log 10. -/

namespace Sys2Proof

/-! ## The request types and the parameters (R72 to R75) -/

/-- The names of the command request types (R72). -/
def ReqName.commands : List ReqName :=
  [.toggleLoad, .setCurrent, .setCutoffVoltage, .setTimeout, .resetCounters]

/-- The names of the query request types (R72). -/
def ReqName.queries : List ReqName :=
  [.loadEnabled, .voltageReading, .currentReading, .elapsedTime, .capacityMilliAmpHours,
   .capacityMilliWattHours, .mosfetTemperature, .currentSetting, .cutoffVoltageSetting, .timerSetting]

/-- All names in listing order. -/
def ReqName.all : List ReqName := ReqName.commands ++ ReqName.queries

/-- The position of a name in the listing order. -/
def ReqName.index : ReqName → Fin 15
  | .toggleLoad => 0 | .setCurrent => 1 | .setCutoffVoltage => 2 | .setTimeout => 3 | .resetCounters => 4
  | .loadEnabled => 5 | .voltageReading => 6 | .currentReading => 7 | .elapsedTime => 8
  | .capacityMilliAmpHours => 9 | .capacityMilliWattHours => 10 | .mosfetTemperature => 11
  | .currentSetting => 12 | .cutoffVoltageSetting => 13 | .timerSetting => 14

/-- TYPE_CODE: the type byte of a request-type name (R74). -/
def Params.code (p : Params) (n : ReqName) : Byte := p.typeCode.get n.index

/-- CMDSET, the defined command type bytes 0x01 to 0x05; not a parameter (R72, R74). -/
def isCommandType (t : Byte) : Bool := decide (0x01#8 ≤ t) && decide (t ≤ 0x05#8)

/-- QRYSET, the defined query type bytes 0x10 to 0x19; not a parameter (R72, R74). -/
def isQueryType (t : Byte) : Bool := decide (0x10#8 ≤ t) && decide (t ≤ 0x19#8)

/-- QUERY_KIND as a function of the type byte: total on QRYSET and without a value elsewhere (R75, R158). -/
def Params.kindOf (p : Params) (t : Byte) : Option ValueKind :=
  if isQueryType t then p.queryKind[t.toNat - 0x10]? else none

/-- R74: TYPE_CODE maps the 5 command names one to one onto CMDSET and the 10 query names one to one onto QRYSET.
(Every `queryKind` is a total function from QRYSET, as R75 asks.) -/
abbrev Params.Valid (p : Params) : Prop :=
  (∀ n ∈ ReqName.commands, isCommandType (p.code n) = true) ∧
  (∀ n ∈ ReqName.queries, isQueryType (p.code n) = true) ∧
  (ReqName.all.map p.code).Nodup

/-- The spec's defaults of TYPE_CODE (R74) and QUERY_KIND (R75). -/
def Params.default : Params where
  typeCode := #v[0x01, 0x02, 0x03, 0x04, 0x05,
                 0x10, 0x11, 0x12, 0x13, 0x14, 0x15, 0x16, 0x17, 0x18, 0x19]
  queryKind := #v[.bool, .u24, .u24, .dur, .u24, .u24, .u24, .u24, .u24, .dur]

/-! ## Words and rejections -/

/-- A word of one of the four formats of 30_encoding.md. -/
inductive TableWord where
  | out6 (f : FrameWord)
  | hw32 (w : HostWord)
  | ack1 (k : Byte)
  | qres7 (g : ResultWord)
  deriving DecidableEq, Repr

/-- Why a word is no row of the table. -/
inductive Reject where
  /-- A must-be-zero bit of a defined HOP is set (R86); on the host port it raises ILLEGAL_OPERATION (R140). -/
  | mustBeZero
  /-- A marker byte of OUT6 or QRES7 is wrong (R70, R78). -/
  | badMarkers
  /-- The frame's type byte names no request type, or a query's payload is not `00 00` (R72, R76). -/
  | noSuchRequest
  deriving DecidableEq, Repr

/-! ## Fields of a host word (R80 to R85) -/

/-- `HOP = w[31:29]`. -/
def hopField (w : HostWord) : BitVec 3 := w.extractLsb' 29 3
/-- `w[28:24]`, reserved. -/
def reservedField (w : HostWord) : BitVec 5 := w.extractLsb' 24 5
/-- `w[28:0]`, ignored by a reserved HOP. -/
def restField (w : HostWord) : BitVec 29 := w.extractLsb' 0 29
/-- `w[23:0]`: FMTD's seconds, and zero for NOP and ABORT. -/
def operandField (w : HostWord) : BitVec 24 := w.extractLsb' 0 24
/-- `TYPE = w[23:16]`. -/
def typeField (w : HostWord) : Byte := w.extractLsb' 16 8
/-- `P0 = w[15:8]`. -/
def p0Field (w : HostWord) : Byte := w.extractLsb' 8 8
/-- `P1 = w[7:0]`. -/
def p1Field (w : HostWord) : Byte := w.extractLsb' 0 8
/-- `w[23:15]`, zero for FMTF. -/
def fmtfZeroField (w : HostWord) : BitVec 9 := w.extractLsb' 15 9
/-- FMTF's `H = w[14:0]`. -/
def hundredthsField (w : HostWord) : BitVec 15 := w.extractLsb' 0 15

/-! ## Decoding -/

/-- HW32 (R80, R81). The reserved HOPs take any lower bits; a defined HOP checks its must-be-zero bits (R86). -/
def decodeHostWord (w : HostWord) : Except Reject Instr :=
  if hopField w = 0b101#3 then .ok (.reserved101 (restField w))
  else if hopField w = 0b110#3 then .ok (.reserved110 (restField w))
  else if hopField w = 0b111#3 then .ok (.reserved111 (restField w))
  else if reservedField w ≠ 0#5 then .error .mustBeZero
  else if hopField w = 0b000#3 then
    if operandField w = 0#24 then .ok .nop else .error .mustBeZero
  else if hopField w = 0b001#3 then .ok (.encode (typeField w) (p0Field w) (p1Field w))
  else if hopField w = 0b010#3 then
    if operandField w = 0#24 then .ok .abort else .error .mustBeZero
  else if hopField w = 0b011#3 then
    if fmtfZeroField w = 0#9 then .ok (.fmtf (hundredthsField w)) else .error .mustBeZero
  else .ok (.fmtd (operandField w))

/-- The name TYPE_CODE gives a type byte, if any (R74). -/
def Params.nameOf (p : Params) (t : Byte) : Option ReqName := ReqName.all.find? fun n => p.code n == t

/-- The request row of a name and a payload; a query has a row only with payload `00 00` (R76). -/
def Instr.ofRequest (n : ReqName) (a b : Byte) : Option Instr :=
  let query (i : Instr) : Option Instr := if a = 0#8 ∧ b = 0#8 then some i else none
  match n with
  | .toggleLoad => some (.toggleLoad a b)
  | .setCurrent => some (.setCurrent a b)
  | .setCutoffVoltage => some (.setCutoffVoltage a b)
  | .setTimeout => some (.setTimeout a b)
  | .resetCounters => some (.resetCounters a b)
  | .loadEnabled => query .loadEnabled
  | .voltageReading => query .voltageReading
  | .currentReading => query .currentReading
  | .elapsedTime => query .elapsedTime
  | .capacityMilliAmpHours => query .capacityMilliAmpHours
  | .capacityMilliWattHours => query .capacityMilliWattHours
  | .mosfetTemperature => query .mosfetTemperature
  | .currentSetting => query .currentSetting
  | .cutoffVoltageSetting => query .cutoffVoltageSetting
  | .timerSetting => query .timerSetting

/-- The request a type byte and a payload stand for (R74, R76). -/
def decodeRequest (p : Params) (t a b : Byte) : Option Instr :=
  (p.nameOf t).bind fun n => Instr.ofRequest n a b

/-- The markers of OUT6 stand at frame bytes 0, 1 and 5 (R70). -/
def frameMarkersOk (f : FrameWord) : Bool :=
  f.extractLsb' 40 8 == Config.txH0 && f.extractLsb' 32 8 == Config.txH1 && f.extractLsb' 0 8 == Config.txT0

/-- The type byte `F[31:24]` (R71). -/
def frameType (f : FrameWord) : Byte := f.extractLsb' 24 8
/-- Payload byte 0, `F[23:16]` (R71). -/
def frameP0 (f : FrameWord) : Byte := f.extractLsb' 16 8
/-- Payload byte 1, `F[15:8]` (R71). -/
def frameP1 (f : FrameWord) : Byte := f.extractLsb' 8 8

/-- OUT6 (R70, R71). -/
def decodeFrame (p : Params) (f : FrameWord) : Except Reject Instr :=
  if frameMarkersOk f then
    match decodeRequest p (frameType f) (frameP0 f) (frameP1 f) with
    | some i => .ok i
    | none => .error .noSuchRequest
  else .error .badMarkers

/-- ACK1: every byte is one of the two rows (R77). -/
def decodeAck (k : Byte) : Instr := if k = Config.ackOkByte then .ackOk else .ackErr k

/-- The seven bytes of a QRES7 word, the first on the wire first (R78). -/
def resultBytes (g : ResultWord) : List Byte :=
  [g.extractLsb' 48 8, g.extractLsb' 40 8, g.extractLsb' 32 8, g.extractLsb' 24 8,
   g.extractLsb' 16 8, g.extractLsb' 8 8, g.extractLsb' 0 8]

/-- QRES7: `G & 0xFFFF000000FFFF = 0xCACB000000CECF` (R78). -/
def decodeResult (g : ResultWord) : Except Reject Instr :=
  if g &&& 0xFFFF000000FFFF#56 = 0xCACB000000CECF#56 then
    .ok (.queryResult (g.extractLsb' 32 8) (g.extractLsb' 24 8) (g.extractLsb' 16 8))
  else .error .badMarkers

/-- The decoder of the four formats. -/
def decode (p : Params) : TableWord → Except Reject Instr
  | .out6 f => decodeFrame p f
  | .hw32 w => decodeHostWord w
  | .ack1 k => .ok (decodeAck k)
  | .qres7 g => decodeResult g

/-- The table word of `nbits` bits whose number is `w`, where a format has that width. -/
def tableWord (nbits w : Nat) : Option TableWord :=
  if w < 2 ^ nbits then
    if nbits = 8 then some (.ack1 (BitVec.ofNat 8 w))
    else if nbits = 32 then some (.hw32 (BitVec.ofNat 32 w))
    else if nbits = 48 then some (.out6 (BitVec.ofNat 48 w))
    else if nbits = 56 then some (.qres7 (BitVec.ofNat 56 w))
    else none
  else none

/-- What the decoder reads from a word numbered as the opcode table numbers it, under the default type codes the table
is written with (R74). -/
def decodeTableWord (nbits w : Nat) : Option Instr :=
  match tableWord nbits w with
  | some tw => (decode Params.default tw).toOption
  | none => none

/-! ## Encoding -/

/-- The frame number `F` of a type byte and a payload (R70, R71). -/
def frameWord (t a b : Byte) : FrameWord :=
  (Config.txH0.setWidth 48 <<< 40) ||| (Config.txH1.setWidth 48 <<< 32) ||| (t.setWidth 48 <<< 24) |||
  (a.setWidth 48 <<< 16) ||| (b.setWidth 48 <<< 8) ||| Config.txT0.setWidth 48

/-- ENCODE's host word, `0x20000000 | t<<16 | a<<8 | b` (R82). -/
def encodeWord (t a b : Byte) : HostWord :=
  0x20000000#32 ||| (t.setWidth 32 <<< 16) ||| (a.setWidth 32 <<< 8) ||| b.setWidth 32

/-- FMTF's host word (R83). -/
def fmtfWord (h : BitVec 15) : HostWord := 0x60000000#32 ||| h.setWidth 32

/-- FMTD's host word (R84). -/
def fmtdWord (sec : BitVec 24) : HostWord := 0x80000000#32 ||| sec.setWidth 32

/-- A host word of a reserved HOP (R81, R86). -/
def reservedWord (hop : BitVec 3) (rest : BitVec 29) : HostWord := (hop.setWidth 32 <<< 29) ||| rest.setWidth 32

/-- The number `G` of a query result with its markers right (R78). -/
def resultWord (v0 v1 v2 : Byte) : ResultWord :=
  0xCACB000000CECF#56 ||| (v0.setWidth 56 <<< 32) ||| (v1.setWidth 56 <<< 24) ||| (v2.setWidth 56 <<< 16)

/-- The table word of an instruction. Request rows are encoded under the parameter TYPE_CODE (R74). -/
def encode (p : Params) : Instr → TableWord
  | .toggleLoad a b => .out6 (frameWord (p.code .toggleLoad) a b)
  | .setCurrent a b => .out6 (frameWord (p.code .setCurrent) a b)
  | .setCutoffVoltage a b => .out6 (frameWord (p.code .setCutoffVoltage) a b)
  | .setTimeout a b => .out6 (frameWord (p.code .setTimeout) a b)
  | .resetCounters a b => .out6 (frameWord (p.code .resetCounters) a b)
  | .loadEnabled => .out6 (frameWord (p.code .loadEnabled) 0 0)
  | .voltageReading => .out6 (frameWord (p.code .voltageReading) 0 0)
  | .currentReading => .out6 (frameWord (p.code .currentReading) 0 0)
  | .elapsedTime => .out6 (frameWord (p.code .elapsedTime) 0 0)
  | .capacityMilliAmpHours => .out6 (frameWord (p.code .capacityMilliAmpHours) 0 0)
  | .capacityMilliWattHours => .out6 (frameWord (p.code .capacityMilliWattHours) 0 0)
  | .mosfetTemperature => .out6 (frameWord (p.code .mosfetTemperature) 0 0)
  | .currentSetting => .out6 (frameWord (p.code .currentSetting) 0 0)
  | .cutoffVoltageSetting => .out6 (frameWord (p.code .cutoffVoltageSetting) 0 0)
  | .timerSetting => .out6 (frameWord (p.code .timerSetting) 0 0)
  | .nop => .hw32 0x00000000
  | .encode t a b => .hw32 (encodeWord t a b)
  | .abort => .hw32 0x40000000
  | .fmtf h => .hw32 (fmtfWord h)
  | .fmtd sec => .hw32 (fmtdWord sec)
  | .reserved101 rest => .hw32 (reservedWord 0b101 rest)
  | .reserved110 rest => .hw32 (reservedWord 0b110 rest)
  | .reserved111 rest => .hw32 (reservedWord 0b111 rest)
  | .ackOk => .ack1 Config.ackOkByte
  | .ackErr raw => .ack1 raw
  | .queryResult v0 v1 v2 => .qres7 (resultWord v0 v1 v2)

end Sys2Proof
end

