-- ==== Sys2Proof/Machine/State.lean ====
section
/-! DEFINITION. The state of the machine as plain data: the block's registers (10_state.md R20), and beside the block
what the model holds for it: its parameters, the agents' steps still to come, the bytes on the wire, and the counter the
free values are applied to. -/

namespace Sys2Proof.Machine

/-- PHASE (R21). The codes 5, 6, 7 are never held. -/
inductive Phase where
  | idle | tx | rx | done | fault
  deriving DecidableEq, Repr

/-- REQ_CLASS (R23): CMD 0, QRY 1. -/
inductive ReqClass where
  | cmd | qry
  deriving DecidableEq, Repr

/-- RES_KIND (R29). -/
inductive ResKind where
  | none | ackOk | ackErr | bool | u24 | dur | invalidResponse | aborted
  deriving DecidableEq, Repr

/-- FCODE (R31, 60_exceptions.md R207). The code 7 is never held. -/
inductive FCode where
  | none | invalidCommandType | invalidQueryType | invalidRequestType | overlap | illegalOperation | operandViolation
  deriving DecidableEq, Repr

/-- The block's complete state (R20). -/
structure Block where
  phase    : Phase
  reqType  : Byte
  reqP0    : Byte
  reqP1    : Byte
  reqClass : ReqClass
  expLen   : BitVec 3
  txBuf    : Vector Byte 6
  txIdx    : BitVec 3
  rxBuf    : Vector Byte 7
  rxCnt    : BitVec 3
  resKind  : ResKind
  resVal   : Value
  fCode    : FCode
  fWord    : HostWord
  fmtP0    : Byte
  fmtP1    : Byte
  fmtValid : Bool
  deriving DecidableEq, Repr

/-- One step an agent takes on the block (20_memory.md R51). -/
inductive Input where
  /-- The host issues a host word (30_encoding.md R80). -/
  | hostWord (w : HostWord)
  /-- The host issues a request given in its OUT6 form; the same step as its host word. Assumption log 8. -/
  | hostRequest (f : FrameWord)
  /-- The channel takes the byte on offer (42_encoder.md R136). -/
  | txPop
  /-- The channel delivers a byte (43_decoder.md R150, R151). -/
  | rxByte (k : Byte)
  /-- The channel delivers seven bytes with no other agent's step between them. Assumption log 9. -/
  | rxResult (g : ResultWord)
  /-- The reset input (70_reset_and_hazards.md R230). -/
  | reset
  deriving DecidableEq, Repr

/-- The machine: the block, and what stands outside it. -/
structure State where
  /-- The block's registers. -/
  block   : Block
  /-- TYPE_CODE and QUERY_KIND; no step changes them. Assumption log 3. -/
  cfg     : Params
  /-- The agents' steps still to come, in order. Assumption log 1. -/
  pending : List Input
  /-- The bytes handed to the channel so far, oldest first. Assumption log 2. -/
  wire    : List Byte
  /-- How many machine steps have run; only the free values read it. Assumption log 5. -/
  epoch   : Nat
  deriving DecidableEq, Repr

/-- Why a step has no next state. Every one is safe: the model stops, and no claim about a next state is made. -/
inductive Fault where
  /-- A host operation in phase FAULT has no step (42_encoder.md R131, U14). Raised by every host operation. Safe. -/
  | hostStuck
  /-- TXPOP outside phase TX has no step (42_encoder.md R135). Raised by the TX event. Safe. -/
  | txNotOffered
  /-- No pending step of any agent is enabled: the block waits (20_memory.md R51, U13, U14). Raised by `step`. Safe. -/
  | noEnabledStep
  /-- TXPOP with TXIDX past the frame; no reachable state has it (10_state.md R38). Raised by the TX event. Safe. -/
  | txPastFrame
  /-- A capture with RXCNT past RXBUF; no reachable state has it (R38). Raised by the RX event. Safe. -/
  | rxPastBuffer
  /-- A response decode at a length or type where 43_decoder.md R158 says it has no value; no reachable state needs
  it. Raised by the RX event. Safe. -/
  | decodeUndefined
  deriving DecidableEq, Repr

/-- Why the machine has no meaning for what it was given. Every one is safe: the model stops. -/
inductive Refusal where
  /-- An instruction without a meaning yet; raised only by an arm of `exec`. Safe. -/
  | notModelled (mnemonic : String)
  /-- A 48-bit value without OUT6's marker bytes was presented as a request; raised by `step`. Safe. Assumption log 14. -/
  | notARequestFrame
  deriving DecidableEq, Repr

/-- The block after RESET (10_state.md R37). Registers R37 leaves unspecified hold the values of assumption log 4. -/
def Block.reset : Block where
  phase    := .idle
  reqType  := 0
  reqP0    := 0
  reqP1    := 0
  reqClass := .cmd
  expLen   := 0
  txBuf    := Vector.replicate 6 0
  txIdx    := 0
  rxBuf    := Vector.replicate 7 0
  rxCnt    := 0
  resKind  := .none
  resVal   := 0
  fCode    := .none
  fWord    := 0
  fmtP0    := 0
  fmtP1    := 0
  fmtValid := false

/-- The machine right after power-on (70_reset_and_hazards.md R231): the reset block, the default parameters, and no
agent's step pending. -/
def State.reset : State where
  block   := Block.reset
  cfg     := Params.default
  pending := []
  wire    := []
  epoch   := 0

end Sys2Proof.Machine
end

