-- ==== Sys2Proof/Machine/Operands.lean ====
section
/-! DEFINITION. What the operations read from a request: its class (30_encoding.md R73), its response length (R79), and
the frame it becomes (42_encoder.md R133). -/

namespace Sys2Proof.Machine

/-- The value of `classify` (R73): a class, or the fault a rejected type byte gets. -/
inductive Classified where
  | cmd
  | qry
  | undefinedType (code : FCode)
  deriving DecidableEq, Repr

/-- `classify(t)` (R73). -/
def classify (t : Byte) : Classified :=
  if isCommandType t then .cmd
  else if t < 0x10#8 then .undefinedType .invalidCommandType
  else if isQueryType t then .qry
  else if t < 0x20#8 then .undefinedType .invalidQueryType
  else .undefinedType .invalidRequestType

/-- EXPLEN of a request class (10_state.md R24). -/
def responseLength : ReqClass → BitVec 3
  | .cmd => Config.cmdLen
  | .qry => Config.qryLen

/-- `frame(t, a, b)` (R133): total, and it changes no byte. -/
def frame (t a b : Byte) : Vector Byte 6 := #v[Config.txH0, Config.txH1, t, a, b, Config.txT0]

/-- The six frame bytes read as the number `F` of R71. -/
def packFrame (v : Vector Byte 6) : FrameWord :=
  (v[0].setWidth 48 <<< 40) ||| (v[1].setWidth 48 <<< 32) ||| (v[2].setWidth 48 <<< 24) |||
  (v[3].setWidth 48 <<< 16) ||| (v[4].setWidth 48 <<< 8) ||| v[5].setWidth 48

end Sys2Proof.Machine
end

