-- ==== Sys2Proof/Machine/Flags.lean ====
section
/-! DEFINITION. The codes of the enumerated registers, the STATUS view (10_state.md R34) and the register encoding of a
result (00_scope.md R11, 10_state.md R29, R30). -/

namespace Sys2Proof.Machine

/-- PHASE's code (R21). -/
def Phase.code : Phase → BitVec 3
  | .idle => 0 | .tx => 1 | .rx => 2 | .done => 3 | .fault => 4

/-- REQ_CLASS's code (R23). -/
def ReqClass.code : ReqClass → BitVec 1
  | .cmd => 0 | .qry => 1

/-- RES_KIND's code (R29). -/
def ResKind.code : ResKind → BitVec 3
  | .none => 0 | .ackOk => 1 | .ackErr => 2 | .bool => 3 | .u24 => 4 | .dur => 5 | .invalidResponse => 6 | .aborted => 7

/-- FCODE's code (R31, R207). -/
def FCode.code : FCode → BitVec 3
  | .none => 0 | .invalidCommandType => 1 | .invalidQueryType => 2 | .invalidRequestType => 3
  | .overlap => 4 | .illegalOperation => 5 | .operandViolation => 6

/-- STATUS[18] (R34): REQ_CLASS, and 0 when no ENCODE has been accepted since reset, that is while EXPLEN = 0 (R24). -/
def Block.classBit (b : Block) : BitVec 1 := if b.expLen = 0 then 0 else b.reqClass.code

/-- STATUS (R34), recomputed at every read:
`PHASE | RES_KIND<<3 | FCODE<<6 | TXIDX<<9 | RXCNT<<12 | EXPLEN<<15 | REQ_CLASS<<18 | FMT_VALID<<19`, bits 31..20 zero. -/
def Block.status (b : Block) : HostWord :=
  b.phase.code.setWidth 32 ||| (b.resKind.code.setWidth 32 <<< 3) ||| (b.fCode.code.setWidth 32 <<< 6) |||
  (b.txIdx.setWidth 32 <<< 9) ||| (b.rxCnt.setWidth 32 <<< 12) ||| (b.expLen.setWidth 32 <<< 15) |||
  (b.classBit.setWidth 32 <<< 18) ||| ((BitVec.ofBool b.fmtValid).setWidth 32 <<< 19)

/-- The tagged result values (R11). -/
inductive Result where
  | ackOk
  | ackErr (raw : Byte)
  | bool (x : Bool)
  | u24 (n : Value)
  | dur (h m s : Byte)
  | invalidResponse
  | aborted
  deriving DecidableEq, Repr

/-- RES_KIND of a result (R29, R30). -/
def Result.kind : Result → ResKind
  | .ackOk => .ackOk
  | .ackErr _ => .ackErr
  | .bool _ => .bool
  | .u24 _ => .u24
  | .dur _ _ _ => .dur
  | .invalidResponse => .invalidResponse
  | .aborted => .aborted

/-- RES_VAL of a result (R30). -/
def Result.val : Result → Value
  | .ackOk => 0
  | .ackErr raw => raw.setWidth 24
  | .bool x => if x then 1 else 0
  | .u24 n => n
  | .dur h m s => (h.setWidth 24 <<< 16) ||| (m.setWidth 24 <<< 8) ||| s.setWidth 24
  | .invalidResponse => 0
  | .aborted => 0

end Sys2Proof.Machine
end

