-- ==== Sys2Proof/Machine/Ops.lean ====
section
/-! DEFINITION. The shared operations over the block: taking a fault and leaving it, accepting a request, the response
decoders, the capture and the frame emission. -/

namespace Sys2Proof.Machine

/-- The outcome of a step of this machine. -/
abbrev Out := Host.Outcome State Fault Refusal

/-! ## Taking a fault, and RESET, which is the only way out of one -/

/-- `raise Fault(code, w)` (60_exceptions.md R200): precise, and every other register keeps its value. -/
def raiseFault (code : FCode) (w : HostWord) (s : State) : State :=
  { s with block := { s.block with
      fCode := code, fWord := w, resKind := .none, resVal := 0, phase := .fault } }

/-- RESET (70_reset_and_hazards.md R230): every register takes its reset value, and nothing outside the block changes
(R232). It is the only step that leaves FAULT (R212). -/
def resetBlock (s : State) : State := { s with block := Block.reset }

/-- Every host operation has no step in phase FAULT (42_encoder.md R131). -/
def hostOp (s : State) (k : Out) : Out :=
  if s.block.phase = .fault then .fault .hostStuck else k

/-- A reserved or malformed host word (42_encoder.md R140). -/
def illegalOperation (w : HostWord) (s : State) : Out :=
  hostOp s (.next (raiseFault .illegalOperation w s))

/-! ## Requests -/

/-- The writes of an accepted ENCODE (42_encoder.md R132). -/
def acceptRequest (c : ReqClass) (t a b : Byte) (s : State) : State :=
  { s with block := { s.block with
      reqType := t, reqP0 := a, reqP1 := b, reqClass := c,
      expLen := responseLength c, txBuf := frame t a b, txIdx := 0, rxCnt := 0,
      resKind := .none, resVal := 0, phase := .tx } }

/-- ENCODE of type `t` and payload `a`, `b` (R132), its checks in R209's order. The must-be-zero check is the decoder's. -/
def encodeRequest (t a b : Byte) (s : State) : Out :=
  hostOp s <|
    if s.block.phase = .tx ∨ s.block.phase = .rx then .next (raiseFault .overlap (encodeWord t a b) s)
    else match classify t with
      | .undefinedType code => .next (raiseFault code (encodeWord t a b) s)
      | .cmd => .next (acceptRequest .cmd t a b s)
      | .qry =>
        if a = 0#8 ∧ b = 0#8 then .next (acceptRequest .qry t a b s)
        else .next (raiseFault .operandViolation (encodeWord t a b) s)

/-- A request row is the ENCODE of the type byte TYPE_CODE gives its name (30_encoding.md R74). Assumption log 7. -/
def issueRequest (n : ReqName) (a b : Byte) (s : State) : Out := encodeRequest (s.cfg.code n) a b s

/-- The writes of ABORT (42_encoder.md R138). -/
def abortTransaction (s : State) : State :=
  if s.block.phase = .tx ∨ s.block.phase = .rx then
    { s with block := { s.block with
        resKind := Result.aborted.kind, resVal := Result.aborted.val, phase := .done } }
  else s

/-- The writes of FMTF and FMTD (44_value_codecs.md R174). -/
def writeFormat (p0 p1 : Byte) (s : State) : State :=
  { s with block := { s.block with fmtP0 := p0, fmtP1 := p1, fmtValid := true } }

/-! ## Frame emission -/

/-- The byte on offer on the TX stream: `TXBUF[TXIDX]` while PHASE = TX, nothing otherwise (42_encoder.md R135). -/
def txOffer (b : Block) : Option Byte :=
  if b.phase = .tx then b.txBuf[b.txIdx.toNat]? else none

/-- The writes of TXPOP (R136): the sixth opens the capture. -/
def advanceFrame (b : Block) : Block :=
  if b.txIdx + 1 = Config.frameLen then { b with txIdx := b.txIdx + 1, rxCnt := 0, phase := .rx }
  else { b with txIdx := b.txIdx + 1 }

/-- TXPOP (R136): the byte on offer goes to the channel. -/
def txPop (s : State) : Out :=
  if s.block.phase = .tx then
    match txOffer s.block with
    | some k => .next { s with block := advanceFrame s.block, wire := s.wire ++ [k] }
    | none => .fault .txPastFrame
  else .fault .txNotOffered

/-! ## Decoding a response -/

/-- `decode_command` (43_decoder.md R155). -/
def decodeCommand (k : Byte) : Result :=
  if k = Config.ackOkByte then .ackOk else .ackErr k

/-- `markers_ok` (R156), on the first two and the last two response bytes. -/
def markersOk (r0 r1 r5 r6 : Byte) : Bool :=
  r0 == Config.rxH0 && r1 == Config.rxH1 && r5 == Config.rxT0 && r6 == Config.rxT1

/-- `parse_bool` (44_value_codecs.md R170): only `v2` decides. -/
def parseBool (_v0 _v1 v2 : Byte) : Bool := v2 != 0#8

/-- `parse_u24` (R171): big-endian, unsigned. -/
def parseU24 (v0 v1 v2 : Byte) : Value :=
  (v0.setWidth 24 <<< 16) ||| (v1.setWidth 24 <<< 8) ||| v2.setWidth 24

/-- `parse` (43_decoder.md R157); DUR takes the bytes as hours, minutes, seconds, unchecked (R172). -/
def parseValue (kind : ValueKind) (v0 v1 v2 : Byte) : Result :=
  match kind with
  | .bool => .bool (parseBool v0 v1 v2)
  | .u24 => .u24 (parseU24 v0 v1 v2)
  | .dur => .dur v0 v1 v2

/-- `decode_query` (R156): the marker check comes before the value parse (60_exceptions.md R209). -/
def decodeQuery (kind : ValueKind) (r0 r1 r2 r3 r4 r5 r6 : Byte) : Result :=
  if markersOk r0 r1 r5 r6 then parseValue kind r2 r3 r4 else .invalidResponse

/-- `decode(c, t, r)` (R154): one byte after a command, seven after a query of a defined type; it has no value at any
other length (R158). -/
def decodeResponse (p : Params) (c : ReqClass) (t : Byte) (r : List Byte) : Option Result :=
  match c, r with
  | .cmd, [k] => some (decodeCommand k)
  | .qry, [r0, r1, r2, r3, r4, r5, r6] =>
    (p.kindOf t).map fun kind => decodeQuery kind r0 r1 r2 r3 r4 r5 r6
  | _, _ => none

/-! ## Capture -/

/-- The result registers after a response is decoded (43_decoder.md R151). -/
def finishCapture (r : Result) (b : Block) : Block :=
  { b with resKind := r.kind, resVal := r.val, phase := .done }

/-- What RXBYTE does once the byte stands in RXBUF and RXCNT counts it (R151): at EXPLEN bytes the response is decoded. -/
def afterCapture (b : Block) (s : State) : Out :=
  if b.rxCnt = b.expLen then
    match decodeResponse s.cfg b.reqClass b.reqType (b.rxBuf.toList.take b.expLen.toNat) with
    | some r => .next { s with block := finishCapture r b }
    | none => .fault .decodeUndefined
  else .next { s with block := b }

/-- RXBYTE(k): captured in phase RX (R151), dropped in every other phase (R150). -/
def rxByte (k : Byte) (s : State) : Out :=
  if s.block.phase = .rx then
    if h : s.block.rxCnt.toNat < 7 then
      afterCapture { s.block with
        rxBuf := s.block.rxBuf.set s.block.rxCnt.toNat k h, rxCnt := s.block.rxCnt + 1 } s
    else .fault .rxPastBuffer
  else .next s

/-- RXBYTEs one after another, with no other agent's step between them (30_encoding.md R89, RXSEQ). -/
def rxSeq : List Byte → State → Out
  | [], s => .next s
  | k :: ks, s =>
    match rxByte k s with
    | .next s' => rxSeq ks s'
    | .fault r => .fault r
    | .refused r => .refused r

end Sys2Proof.Machine
end

