-- ==== Sys2Proof/Machine/HostOps.lean ====
section
/-! DEFINITION. The host operations NOP, ENCODE, ABORT, FMTF, FMTD and the reserved host words (42_encoder.md R130 to
R140, 44_value_codecs.md R174 to R177). -/

namespace Sys2Proof.Machine

/-- NOP (R130): no register changes. -/
def execNop (s : State) : Out := hostOp s (.next s)

/-- ENCODE (R132). -/
def execEncode (t p0 p1 : Byte) (s : State) : Out := encodeRequest t p0 p1 s

/-- ABORT (R138). -/
def execAbort (s : State) : Out := hostOp s (.next (abortTransaction s))

/-- FMTF (R175): integer part and hundredths of `h` hundredths; an integer part above 255 faults. -/
def execFmtf (h : BitVec 15) (s : State) : Out :=
  hostOp s <|
    if h.toNat > 25599 then .next (raiseFault .operandViolation (fmtfWord h) s)
    else .next (writeFormat (BitVec.ofNat 8 (h.toNat / 100)) (BitVec.ofNat 8 (h.toNat % 100)) s)

/-- FMTD (R177): the seconds modulo 65536, high byte first. -/
def execFmtd (sec : BitVec 24) (s : State) : Out :=
  hostOp s <| .next <|
    let n := sec.toNat % 65536
    writeFormat (BitVec.ofNat 8 (n / 256)) (BitVec.ofNat 8 (n % 256)) s

/-- HOP 101 (R140). -/
def execReserved101 (rest : BitVec 29) (s : State) : Out := illegalOperation (reservedWord 0b101 rest) s
/-- HOP 110 (R140). -/
def execReserved110 (rest : BitVec 29) (s : State) : Out := illegalOperation (reservedWord 0b110 rest) s
/-- HOP 111 (R140). -/
def execReserved111 (rest : BitVec 29) (s : State) : Out := illegalOperation (reservedWord 0b111 rest) s

end Sys2Proof.Machine
end

