-- ==== Sys2Proof/Machine/Requests.lean ====
section
/-! DEFINITION. The request types (40_commands.md R100 to R104, 41_queries.md R110 to R119). Each is the ENCODE step of
its type byte; the frame then goes out by TXPOPs and the response comes in by RXBYTEs, which decode it by the class and
type this step latched. Assumption log 7. -/

namespace Sys2Proof.Machine

/-- ToggleLoad (R100). -/
def execToggleLoad (p0 p1 : Byte) (s : State) : Out := issueRequest .toggleLoad p0 p1 s
/-- SetCurrent (R101). -/
def execSetCurrent (p0 p1 : Byte) (s : State) : Out := issueRequest .setCurrent p0 p1 s
/-- SetCutoffVoltage (R102). -/
def execSetCutoffVoltage (p0 p1 : Byte) (s : State) : Out := issueRequest .setCutoffVoltage p0 p1 s
/-- SetTimeout (R103). -/
def execSetTimeout (p0 p1 : Byte) (s : State) : Out := issueRequest .setTimeout p0 p1 s
/-- ResetCounters (R104). -/
def execResetCounters (p0 p1 : Byte) (s : State) : Out := issueRequest .resetCounters p0 p1 s
/-- LoadEnabled (R110). -/
def execLoadEnabled (s : State) : Out := issueRequest .loadEnabled 0 0 s
/-- VoltageReading (R111). -/
def execVoltageReading (s : State) : Out := issueRequest .voltageReading 0 0 s
/-- CurrentReading (R112). -/
def execCurrentReading (s : State) : Out := issueRequest .currentReading 0 0 s
/-- ElapsedTime (R113). -/
def execElapsedTime (s : State) : Out := issueRequest .elapsedTime 0 0 s
/-- CapacityMilliAmpHours (R114). -/
def execCapacityMilliAmpHours (s : State) : Out := issueRequest .capacityMilliAmpHours 0 0 s
/-- CapacityMilliWattHours (R115). -/
def execCapacityMilliWattHours (s : State) : Out := issueRequest .capacityMilliWattHours 0 0 s
/-- MosfetTemperature (R116). -/
def execMosfetTemperature (s : State) : Out := issueRequest .mosfetTemperature 0 0 s
/-- CurrentSetting (R117). -/
def execCurrentSetting (s : State) : Out := issueRequest .currentSetting 0 0 s
/-- CutoffVoltageSetting (R118). -/
def execCutoffVoltageSetting (s : State) : Out := issueRequest .cutoffVoltageSetting 0 0 s
/-- TimerSetting (R119). -/
def execTimerSetting (s : State) : Out := issueRequest .timerSetting 0 0 s

end Sys2Proof.Machine
end

