-- ==== Sys2Proof/Machine/Responses.lean ====
section
/-! DEFINITION. The response rows (30_encoding.md R77, R78). A response acts on the block by its bytes arriving, each an
RXBYTE of 43_decoder.md R150 and R151; what they decode to is the class and type of the request in flight. Assumption
log 9. -/

namespace Sys2Proof.Machine

/-- ACK_OK: the byte 0x6F arrives (R155). -/
def execAckOk (s : State) : Out := rxByte Config.ackOkByte s

/-- ACK_ERR: another byte arrives (R155). -/
def execAckErr (raw : Byte) (s : State) : Out := rxByte raw s

/-- QUERY_RESULT: the seven bytes `CA CB v0 v1 v2 CE CF` arrive in that order (R156). -/
def execQueryResult (v0 v1 v2 : Byte) (s : State) : Out :=
  rxSeq [Config.rxH0, Config.rxH1, v0, v1, v2, Config.rxT0, Config.rxT1] s

end Sys2Proof.Machine
end

