-- ==== Sys2Proof/Machine/Dispatch.lean ====
section
/-! DEFINITION. One arm for each instruction. -/

namespace Sys2Proof.Machine

def exec (i : Instr) (s : State) : Host.Outcome State Fault Refusal :=
  match i with
  | .toggleLoad p0 p1 => Sys2Proof.Machine.execToggleLoad p0 p1 s
  | .setCurrent p0 p1 => Sys2Proof.Machine.execSetCurrent p0 p1 s
  | .setCutoffVoltage p0 p1 => Sys2Proof.Machine.execSetCutoffVoltage p0 p1 s
  | .setTimeout p0 p1 => Sys2Proof.Machine.execSetTimeout p0 p1 s
  | .resetCounters p0 p1 => Sys2Proof.Machine.execResetCounters p0 p1 s
  | .loadEnabled => Sys2Proof.Machine.execLoadEnabled s
  | .voltageReading => Sys2Proof.Machine.execVoltageReading s
  | .currentReading => Sys2Proof.Machine.execCurrentReading s
  | .elapsedTime => Sys2Proof.Machine.execElapsedTime s
  | .capacityMilliAmpHours => Sys2Proof.Machine.execCapacityMilliAmpHours s
  | .capacityMilliWattHours => Sys2Proof.Machine.execCapacityMilliWattHours s
  | .mosfetTemperature => Sys2Proof.Machine.execMosfetTemperature s
  | .currentSetting => Sys2Proof.Machine.execCurrentSetting s
  | .cutoffVoltageSetting => Sys2Proof.Machine.execCutoffVoltageSetting s
  | .timerSetting => Sys2Proof.Machine.execTimerSetting s
  | .nop => Sys2Proof.Machine.execNop s
  | .encode t p0 p1 => Sys2Proof.Machine.execEncode t p0 p1 s
  | .abort => Sys2Proof.Machine.execAbort s
  | .fmtf h => Sys2Proof.Machine.execFmtf h s
  | .fmtd sec => Sys2Proof.Machine.execFmtd sec s
  | .reserved101 rest => Sys2Proof.Machine.execReserved101 rest s
  | .reserved110 rest => Sys2Proof.Machine.execReserved110 rest s
  | .reserved111 rest => Sys2Proof.Machine.execReserved111 rest s
  | .ackOk => Sys2Proof.Machine.execAckOk s
  | .ackErr raw => Sys2Proof.Machine.execAckErr raw s
  | .queryResult v0 v1 v2 => Sys2Proof.Machine.execQueryResult v0 v1 v2 s

end Sys2Proof.Machine
end

