-- ==== Sys2Proof/Machine/Fetch.lean ====
section
/-! DEFINITION. Which agent's step comes next, and running it. The block has no step of its own (20_memory.md R51): a
machine step takes the first pending step that is enabled and runs it. Assumption logs 1, 6, 8, 9. -/

namespace Sys2Proof.Machine

/-- Which agents have a step in a phase: the host in every phase but FAULT (42_encoder.md R131), the TX side in TX only
(R135), the RX side and the reset source always (20_memory.md R52, 70_reset_and_hazards.md R230). -/
def Input.enabled (p : Phase) : Input → Bool
  | .hostWord _ => p != .fault
  | .hostRequest _ => p != .fault
  | .txPop => p == .tx
  | .rxByte _ => true
  | .rxResult _ => true
  | .reset => true

/-- The first enabled step, and the steps still pending after it. An agent that has no step waits; its own steps keep
their order. -/
def takeEnabled (p : Phase) : List Input → Option (Input × List Input)
  | [] => none
  | x :: xs =>
    if x.enabled p then some (x, xs)
    else match takeEnabled p xs with
      | some (y, ys) => some (y, x :: ys)
      | none => none

/-- A host word (30_encoding.md R80): its row's meaning, or ILLEGAL_OPERATION for a malformed word (42_encoder.md R140). -/
def runHostWord (w : HostWord) (s : State) : Out :=
  match decodeHostWord w with
  | .ok i => exec i s
  | .error _ => illegalOperation w s

/-- A request in its OUT6 form: its row's meaning; where the type byte and payload are no row, the ENCODE of them, which
faults as R132 says. A value without the frame's markers is no request. Assumption logs 8, 14. -/
def runRequest (f : FrameWord) (s : State) : Out :=
  match decodeFrame s.cfg f with
  | .ok i => exec i s
  | .error .badMarkers => .refused .notARequestFrame
  | .error _ => exec (.encode (frameType f) (frameP0 f) (frameP1 f)) s

/-- Seven response bytes: QUERY_RESULT where the markers are right, the same seven RXBYTEs where not (43_decoder.md R156). -/
def runResult (g : ResultWord) (s : State) : Out :=
  match decodeResult g with
  | .ok i => exec i s
  | .error _ => rxSeq (resultBytes g) s

/-- One agent's step. -/
def runInput : Input → State → Out
  | .hostWord w, s => runHostWord w s
  | .hostRequest f, s => runRequest f s
  | .txPop, s => txPop s
  | .rxByte k, s => rxByte k s
  | .rxResult g, s => runResult g s
  | .reset, s => .next (resetBlock s)

/-- The state in which the chosen step runs: it is no longer pending, and the free values move on. -/
def consume (rest : List Input) (s : State) : State := { s with pending := rest, epoch := s.epoch + 1 }

/-- One step of the machine. -/
def stepPending (s : State) : Out :=
  match takeEnabled s.block.phase s.pending with
  | some (x, rest) => runInput x (consume rest s)
  | none => .fault .noEnabledStep

/-- The input that presents a table word at the port its format belongs to (30_encoding.md R70, R77, R78, R80). -/
def inputOf : TableWord → Input
  | .out6 f => .hostRequest f
  | .hw32 w => .hostWord w
  | .ack1 k => .rxByte k
  | .qres7 g => .rxResult g

/-- The word of `nbits` bits placed first among the pending steps. -/
def placeWord (nbits w : Nat) (s : State) : State :=
  match tableWord nbits w with
  | some tw => { s with pending := inputOf tw :: s.pending }
  | none => s

end Sys2Proof.Machine
end

