-- ==== Sys2Proof/Machine/Step.lean ====
section
/-! DEFINITION. The machine's step, and how a word is placed where it runs next. -/

namespace Sys2Proof.Machine

/-- One step: the first enabled pending step of an agent (Machine/Fetch.lean). -/
def step (s : State) : Host.Outcome State Fault Refusal := stepPending s

/-- `s` with a table word as the agents' next step. It stands for the host or the channel presenting the word; the block
fetches nothing (20_memory.md R62). Assumption log 8. -/
def State.withFetchWord (s : State) (nbits w : Nat) : State := placeWord nbits w s

end Sys2Proof.Machine
end

