-- ==== Sys2Proof/Machine/HostPort.lean ====
section
/-! DEFINITION. What the host reads (10_state.md R20: RXBUF, RES_VAL, FWORD, FMT_P0, FMT_P1, and the rest through
STATUS). A read is a function of the state: it has no side effect and is idempotent (20_memory.md R58). REQ_TYPE,
REQ_P0, REQ_P1 and TXBUF are not readable. Assumption log 13. -/

namespace Sys2Proof.Machine

/-- A read of STATUS (R34). -/
def readStatus (s : State) : HostWord := s.block.status

/-- A read of `RXBUF[i]`: the captured byte below RXCNT, a free value at or above it (R27, U2). -/
def readRxBuf (s : State) (i : Fin 7) : Byte :=
  if i.val < s.block.rxCnt.toNat then s.block.rxBuf[i] else Config.uncapturedByte s.epoch i.val

/-- A read of RES_VAL (R30). -/
def readResVal (s : State) : Value := s.block.resVal

/-- A read of FWORD (R32). -/
def readFWord (s : State) : HostWord := s.block.fWord

/-- A read of FMT_P0: a free value while FMT_VALID = 0 (R33, U3). -/
def readFmtP0 (s : State) : Byte :=
  if s.block.fmtValid then s.block.fmtP0 else Config.unformattedByte s.epoch 0

/-- A read of FMT_P1: a free value while FMT_VALID = 0 (R33, U3). -/
def readFmtP1 (s : State) : Byte :=
  if s.block.fmtValid then s.block.fmtP1 else Config.unformattedByte s.epoch 1

/-- The result RES_KIND and RES_VAL stand for (R11, R30); none while no result is held. -/
def readResult (s : State) : Option Result :=
  let v := s.block.resVal
  match s.block.resKind with
  | .none => none
  | .ackOk => some .ackOk
  | .ackErr => some (.ackErr (v.extractLsb' 0 8))
  | .bool => some (.bool (v != 0#24))
  | .u24 => some (.u24 v)
  | .dur => some (.dur (v.extractLsb' 16 8) (v.extractLsb' 8 8) (v.extractLsb' 0 8))
  | .invalidResponse => some .invalidResponse
  | .aborted => some .aborted

end Sys2Proof.Machine
end

