-- ==== Sys2Proof/Machine/Listing.lean ====
section
/-! DEFINITION. The listing notation of 30_encoding.md R88 and R89: a program is a sequence of steps of the agents, one on
each line, and each line is the inputs it stands for. -/

namespace Sys2Proof.Machine

/-- QUERY: the host word of ENCODE with a zero payload. -/
def queryInput (p : Params) (n : ReqName) : Input := .hostWord (encodeWord (p.code n) 0 0)

/-- SEND6: six TXPOPs. -/
def send6 : List Input := List.replicate 6 .txPop

/-- RXSEQ: one RXBYTE for each byte, in order. -/
def rxInputs (ks : List Byte) : List Input := ks.map .rxByte

/-- A line's request type: a name of R74 or a byte. -/
inductive TypeOperand where
  | name (n : ReqName)
  | byte (t : Byte)
  deriving DecidableEq, Repr

/-- The type byte of a line's request type. -/
def TypeOperand.code (p : Params) : TypeOperand → Byte
  | .name n => p.code n
  | .byte t => t

/-- A line of a listing (R88), the pseudo-instructions of R89 among them. -/
inductive Line where
  | nop
  | encode (t : TypeOperand) (p0 p1 : Byte)
  | abort
  | fmtf (h : BitVec 15)
  | fmtd (sec : BitVec 24)
  | txPop
  | rxByte (k : Byte)
  | reset
  | query (n : ReqName)
  | send6
  | rxSeq (ks : List Byte)
  deriving DecidableEq, Repr

/-- The inputs a line stands for. -/
def Line.inputs (p : Params) : Line → List Input
  | .nop => [.hostWord 0x00000000]
  | .encode t p0 p1 => [.hostWord (encodeWord (t.code p) p0 p1)]
  | .abort => [.hostWord 0x40000000]
  | .fmtf h => [.hostWord (fmtfWord h)]
  | .fmtd sec => [.hostWord (fmtdWord sec)]
  | .txPop => [.txPop]
  | .rxByte k => [.rxByte k]
  | .reset => [.reset]
  | .query n => [queryInput p n]
  | .send6 => Machine.send6
  | .rxSeq ks => rxInputs ks

/-- The inputs of a whole listing, in order. -/
def listingInputs (p : Params) (lines : List Line) : List Input := lines.flatMap (Line.inputs p)

end Sys2Proof.Machine
end

