-- ==== Sys2Proof/Safety.lean ====
section
/-! DEFINITION. The terms claims use: the invariants of a reachable state (10_state.md R38 and the rules it is derived
from), the host contract (60_exceptions.md R215 to R222), and when two states differ only in what the spec leaves
unspecified (93_implementation_defined.md U1 to U3). -/

namespace Sys2Proof.Safety

open Sys2Proof.Machine

/-! ## Invariants -/

/-- The class a type byte has when ENCODE accepts it (30_encoding.md R73). -/
def classMatches (c : ReqClass) (t : Byte) : Prop :=
  match c with
  | .cmd => isCommandType t = true
  | .qry => isQueryType t = true

/-- What every reachable block satisfies. The last bullet of R38 speaks of REQ_CLASS once it has a value, that is once
an ENCODE has been accepted since reset, which is EXPLEN ≠ 0 (R24). Assumption log 19. -/
structure BlockInv (b : Block) : Prop where
  /-- R38: in TX a frame byte is on offer and nothing is captured. -/
  tx_position : b.phase = .tx → b.txIdx.toNat < 6 ∧ b.rxCnt = 0
  /-- R38: in RX the frame is out and the capture is short of its length. -/
  rx_position : b.phase = .rx → b.txIdx = 6 ∧ b.rxCnt.toNat < b.expLen.toNat
  /-- R29, R38: a result is held exactly in DONE. -/
  result_iff_done : b.resKind ≠ .none ↔ b.phase = .done
  /-- R38: an acknowledgement ends a command's capture of one byte. -/
  ack_result : b.resKind = .ackOk ∨ b.resKind = .ackErr → b.reqClass = .cmd ∧ b.rxCnt = 1
  /-- R38: a query's results end a capture of seven bytes. -/
  query_result : b.resKind = .bool ∨ b.resKind = .u24 ∨ b.resKind = .dur ∨ b.resKind = .invalidResponse →
    b.reqClass = .qry ∧ b.rxCnt = 7
  /-- R31, R38: a fault code is held exactly in FAULT. -/
  fault_iff_code : b.phase = .fault ↔ b.fCode ≠ .none
  /-- R32: FWORD is zero when no fault is held. -/
  no_fault_word : b.fCode = .none → b.fWord = 0
  /-- R24: once a request was accepted, and in every phase of a transaction, EXPLEN is its class's length. -/
  request_accepted : b.phase = .tx ∨ b.phase = .rx ∨ b.phase = .done → b.expLen ≠ 0
  /-- R24, R38: EXPLEN is 1 after a command and 7 after a query. -/
  length_of_class : b.expLen ≠ 0 → b.expLen = if b.reqClass = .cmd then 1 else 7
  /-- R23: the class is the type byte's. -/
  class_of_type : b.expLen ≠ 0 → classMatches b.reqClass b.reqType
  /-- R38: a query's payload is zero. -/
  query_payload : b.expLen ≠ 0 → b.reqClass = .qry → b.reqP0 = 0 ∧ b.reqP1 = 0
  /-- R25: TXBUF is the accepted request's frame. -/
  frame_held : b.expLen ≠ 0 → b.txBuf = #v[0xB1, 0xB2, b.reqType, b.reqP0, b.reqP1, 0xB6]
  /-- R26: TXIDX is at most 6, and 0 before the first request. -/
  txIdx_bound : b.txIdx.toNat ≤ 6 ∧ (b.expLen = 0 → b.txIdx = 0)
  /-- R28: RXCNT never exceeds EXPLEN. -/
  rxCnt_bound : b.rxCnt.toNat ≤ b.expLen.toNat
  /-- R30: kinds without a value have RES_VAL zero. -/
  no_value : b.resKind = .none ∨ b.resKind = .ackOk ∨ b.resKind = .invalidResponse ∨ b.resKind = .aborted →
    b.resVal = 0
  /-- R30, R155: ACK_ERR holds a byte other than the success byte. -/
  ack_err_value : b.resKind = .ackErr → b.resVal.toNat < 256 ∧ b.resVal ≠ 0x6F
  /-- R30: BOOL holds 0 or 1. -/
  bool_value : b.resKind = .bool → b.resVal = 0 ∨ b.resVal = 1

/-- The bytes on the wire end with the part of TXBUF emitted so far (10_state.md R26, 42_encoder.md R136, R139). -/
def WireInv (s : State) : Prop :=
  s.block.expLen ≠ 0 → ∃ before, s.wire = before ++ s.block.txBuf.toList.take s.block.txIdx.toNat

/-! ## The host contract -/

/-- R215: the host issues a request only in IDLE or DONE. -/
def mayRequest (p : Phase) : Bool := p == .idle || p == .done

/-- A host operation that keeps the host contract: requests only when none is in flight (R215), of a defined type
(30_encoding.md R72) and, for a query, with a zero payload (R76); FMTF in range (44_value_codecs.md R175); no reserved
word. Responses are the channel's, which the contract does not bind. Assumption log 17. -/
def keepsContract (p : Phase) : Instr → Bool
  | .toggleLoad _ _ | .setCurrent _ _ | .setCutoffVoltage _ _ | .setTimeout _ _ | .resetCounters _ _ => mayRequest p
  | .loadEnabled | .voltageReading | .currentReading | .elapsedTime | .capacityMilliAmpHours => mayRequest p
  | .capacityMilliWattHours | .mosfetTemperature | .currentSetting | .cutoffVoltageSetting | .timerSetting => mayRequest p
  | .nop | .abort | .fmtd _ => true
  | .encode t p0 p1 => mayRequest p && (isCommandType t || isQueryType t && p0 == 0#8 && p1 == 0#8)
  | .fmtf h => decide (h.toNat ≤ 25599)
  | .reserved101 _ | .reserved110 _ | .reserved111 _ => false
  | .ackOk | .ackErr _ | .queryResult _ _ _ => true

/-- An agent's step that keeps the host contract: a host word or request must be a well-formed one that keeps it. -/
def inputKeepsContract (cfg : Params) (p : Phase) : Input → Bool
  | .hostWord w => match decodeHostWord w with
    | .ok i => keepsContract p i
    | .error _ => false
  | .hostRequest f => match decodeFrame cfg f with
    | .ok i => keepsContract p i
    | .error _ => false
  | .txPop | .rxByte _ | .rxResult _ | .reset => true

/-- The next `n` machine steps all keep the host contract. -/
def runKeepsContract : Nat → State → Prop
  | 0, _ => True
  | n + 1, s =>
    match takeEnabled s.block.phase s.pending with
    | some (x, _) => inputKeepsContract s.cfg s.block.phase x = true ∧
      ∀ t, step s = .next t → runKeepsContract n t
    | none => True

/-- R216, R217: the host repeats a request only after INVALID_RESPONSE and only while it has made fewer than
`RETRY_COUNT` attempts in all. -/
def mayRetry (retryCount attempts : Nat) (k : ResKind) : Bool :=
  k == .invalidResponse && decide (attempts < retryCount)

/-- How many attempts the host makes when attempt number `i` would end in the `i`-th result of the list, having made
`made` before. -/
def attempts (retryCount made : Nat) : List ResKind → Nat
  | [] => made
  | k :: ks => if mayRetry retryCount (made + 1) k then attempts retryCount (made + 1) ks else made + 1

/-- R221: the host may reconnect the channel only with no transaction in flight. -/
def mayReconnect (s : State) : Bool := s.block.phase != .tx && s.block.phase != .rx

/-- R222: the host reads a result only in DONE. -/
def mayReadResult (s : State) : Bool := s.block.phase == .done

/-- R235: the probe that makes the device usable is one VoltageReading transaction that ends in a U24 result. -/
def probeSucceeded (s : State) : Prop :=
  s.block.phase = .done ∧ s.block.reqType = s.cfg.code .voltageReading ∧ s.block.resKind = .u24

/-- 44_value_codecs.md R173: the total seconds of a duration result, where a host wants one; the block never computes
it. -/
def durationSeconds (h m s : Byte) : Nat := 3600 * h.toNat + 60 * m.toNat + s.toNat

/-! ## Unspecified registers -/

/-- Two blocks that agree on every register that has a value (10_state.md R27, R33, R37; U1 to U3): the request and the
frame once a request was accepted, RXBUF below RXCNT, the formatter's bytes once FMT_VALID. -/
structure SameDefined (b c : Block) : Prop where
  phase : b.phase = c.phase
  expLen : b.expLen = c.expLen
  txIdx : b.txIdx = c.txIdx
  rxCnt : b.rxCnt = c.rxCnt
  resKind : b.resKind = c.resKind
  resVal : b.resVal = c.resVal
  fCode : b.fCode = c.fCode
  fWord : b.fWord = c.fWord
  fmtValid : b.fmtValid = c.fmtValid
  request : b.expLen ≠ 0 →
    b.reqClass = c.reqClass ∧ b.reqType = c.reqType ∧ b.reqP0 = c.reqP0 ∧ b.reqP1 = c.reqP1 ∧ b.txBuf = c.txBuf
  captured : b.rxBuf.toList.take b.rxCnt.toNat = c.rxBuf.toList.take b.rxCnt.toNat
  formatted : b.fmtValid = true → b.fmtP0 = c.fmtP0 ∧ b.fmtP1 = c.fmtP1

/-- Two states whose blocks agree on every register that has a value, with everything else equal. -/
def SameView (s t : State) : Prop :=
  SameDefined s.block t.block ∧ s.cfg = t.cfg ∧ s.pending = t.pending ∧ s.wire = t.wire ∧ s.epoch = t.epoch

/-- Two states that differ at most in the formatter's registers (10_state.md R33). -/
def SameButFormat (s t : State) : Prop :=
  ∃ p0 p1 v, t = { s with block := { s.block with fmtP0 := p0, fmtP1 := p1, fmtValid := v } }

end Sys2Proof.Safety
end

