-- ==== Sys2Proof/Certificates/Slice0/Obligations.lean ====
section
/-! DEFINITION. The statements for the provers. Each docstring names the rule of spec/ it says, or says that it is the
model's choice and names the assumption log. -/

namespace Sys2Proof.Claims

open Sys2Proof.Machine

/-- No transaction is in flight and no fault is held: PHASE ∈ {IDLE, DONE}. -/
def Ready (s : State) : Prop := s.block.phase = .idle ∨ s.block.phase = .done

/-- A transaction is in flight: PHASE ∈ {TX, RX}. -/
def InFlight (s : State) : Prop := s.block.phase = .tx ∨ s.block.phase = .rx

/-- The state R200 gives after `raise Fault(code, w)`. -/
def faulted (code : FCode) (w : HostWord) (s : State) : State :=
  { s with block := { s.block with
      fCode := code, fWord := w, resKind := .none, resVal := 0x000000, phase := .fault } }

/-- The state R132 gives after an accepted ENCODE of class `c` and response length `len`. -/
def started (c : ReqClass) (len : BitVec 3) (t a b : Byte) (s : State) : State :=
  { s with block := { s.block with
      reqType := t, reqP0 := a, reqP1 := b, reqClass := c, expLen := len,
      txBuf := #v[0xB1, 0xB2, t, a, b, 0xB6], txIdx := 0, rxCnt := 0,
      resKind := .none, resVal := 0x000000, phase := .tx } }

/-- An accepted command request (R132, R24: one response byte). -/
def startedCommand (t a b : Byte) (s : State) : State := started .cmd 1 t a b s

/-- An accepted query request (R132, R24: seven response bytes). -/
def startedQuery (t : Byte) (s : State) : State := started .qry 7 t 0x00 0x00 s

/-- The host word of `ENCODE t, a, b` (R82): `0x20000000 | t<<16 | a<<8 | b`. -/
def encodeHW (t a b : Byte) : HostWord :=
  0x20000000#32 ||| (t.setWidth 32 <<< 16) ||| (a.setWidth 32 <<< 8) ||| b.setWidth 32

/-- The host words R140 calls reserved or malformed. -/
def Malformed (w : HostWord) : Prop :=
  5 ≤ (w.extractLsb' 29 3).toNat ∨ w.extractLsb' 24 5 ≠ 0 ∨
  ((w.extractLsb' 29 3 = 0 ∨ w.extractLsb' 29 3 = 2) ∧ w.extractLsb' 0 24 ≠ 0) ∨
  (w.extractLsb' 29 3 = 3 ∧ w.extractLsb' 15 9 ≠ 0)

/-- The fault of ENCODE's type byte `w[23:16]` and payload, in phase IDLE or DONE (R201 to R203, R206). -/
def requestFault (w : HostWord) : Option FCode :=
  let t := (w.extractLsb' 16 8).toNat
  if t = 0x00 ∨ (0x06 ≤ t ∧ t ≤ 0x0F) then some .invalidCommandType
  else if 0x1A ≤ t ∧ t ≤ 0x1F then some .invalidQueryType
  else if 0x20 ≤ t then some .invalidRequestType
  else if 0x10 ≤ t ∧ (w.extractLsb' 8 8 ≠ 0x00 ∨ w.extractLsb' 0 8 ≠ 0x00) then some .operandViolation
  else none

/-- The fault a host word raises in state `s`, in the order of R209, or none. -/
def HostFault (s : State) (w : HostWord) (o : Option FCode) : Prop :=
  (Malformed w ∧ o = some .illegalOperation) ∨
  (¬ Malformed w ∧ w.extractLsb' 29 3 = 1 ∧ InFlight s ∧ o = some .overlap) ∨
  (¬ Malformed w ∧ w.extractLsb' 29 3 = 1 ∧ Ready s ∧ o = requestFault w) ∨
  (¬ Malformed w ∧ w.extractLsb' 29 3 = 3 ∧
    o = if 25599 < (w.extractLsb' 0 15).toNat then some .operandViolation else none) ∨
  (¬ Malformed w ∧ (w.extractLsb' 29 3 = 0 ∨ w.extractLsb' 29 3 = 2 ∨ w.extractLsb' 29 3 = 4) ∧ o = none)

/-- The RES_KIND and RES_VAL R30 gives a result of kind `kind` from the value bytes (R157, R170 to R172). -/
def valueResult (kind : ValueKind) (v0 v1 v2 : Byte) (k : ResKind) (v : Value) : Prop :=
  match kind with
  | .bool => k = .bool ∧ v = if v2 = 0x00 then 0x000000 else 0x000001
  | .u24 => k = .u24 ∧ v.toNat = v0.toNat * 65536 + v1.toNat * 256 + v2.toNat
  | .dur => k = .dur ∧ v.toNat = v0.toNat * 65536 + v1.toNat * 256 + v2.toNat

/-- The result R156 gives seven captured bytes: INVALID_RESPONSE unless all four markers are right. -/
def queryOutcome (kind : ValueKind) (r : Vector Byte 7) (k : ResKind) (v : Value) : Prop :=
  if r[0] = 0xCA ∧ r[1] = 0xCB ∧ r[5] = 0xCE ∧ r[6] = 0xCF then valueResult kind r[2] r[3] r[4] k v
  else k = .invalidResponse ∧ v = 0x000000

/-- A capture that has its last byte: the captured bytes, their count, and the result. -/
def captured (buf : Vector Byte 7) (n : BitVec 3) (k : ResKind) (v : Value) (s : State) : State :=
  { s with block := { s.block with rxBuf := buf, rxCnt := n, resKind := k, resVal := v, phase := .done } }

end Sys2Proof.Claims

open Sys2Proof Sys2Proof.Machine Sys2Proof.Safety Sys2Proof.Claims

/-! ## Encodings -/

/-- 30_encoding.md R70 to R86: no bit of any encoding is dropped, for every TYPE_CODE that R74 allows. -/
def Obligations.DecodeEncodeRoundTrip : Prop :=
  ∀ p : Params, p.Valid → ∀ i : Instr, i.wellFormed = true → decode p (encode p i) = .ok i

/-- 30_encoding.md R70 to R86: each word has one meaning. -/
def Obligations.DecodedWordEncodesBack : Prop :=
  ∀ (p : Params) (tw : TableWord) (i : Instr), decode p tw = .ok i → encode p i = tw ∧ i.wellFormed = true

/-- Words written out from spec/opcode_table.json's patterns decode to their rows. -/
def Obligations.WrittenWordsDecode : Prop :=
  decodeTableWord 48 0xB1B2020117B6 = some (.setCurrent 0x01 0x17) ∧
  decodeTableWord 48 0xB1B2190000B6 = some .timerSetting ∧
  decodeTableWord 32 0x20020117 = some (.encode 0x02 0x01 0x17) ∧
  decodeTableWord 32 0x6000007B = some (.fmtf 123) ∧
  decodeTableWord 32 0x80011170 = some (.fmtd 70000) ∧
  decodeTableWord 8 0x6F = some .ackOk ∧
  decodeTableWord 56 0xCACB0003E8CECF = some (.queryResult 0x00 0x03 0xE8)

/-- R71: the frame number's bytes are the frame's, byte 0 on top, and OUT6 is its constant markers around type and
payload. -/
def Obligations.FrameNumberFields : Prop :=
  (∀ v : Vector Byte 6,
    (packFrame v).extractLsb' 40 8 = v[0] ∧ (packFrame v).extractLsb' 32 8 = v[1] ∧
    (packFrame v).extractLsb' 24 8 = v[2] ∧ (packFrame v).extractLsb' 16 8 = v[3] ∧
    (packFrame v).extractLsb' 8 8 = v[4] ∧ (packFrame v).extractLsb' 0 8 = v[5]) ∧
  (∀ t a b : Byte, packFrame (frame t a b) =
    0xB1B2000000B6#48 ||| (t.setWidth 48 <<< 24) ||| (a.setWidth 48 <<< 16) ||| (b.setWidth 48 <<< 8))

/-! ## Steps -/

/-- When the first enabled pending step presents a word that decodes, the machine step is the instruction's meaning, in
the state where that step is no longer pending. Model's form of a step: assumption logs 1 and 8. -/
def Obligations.StepRunsDecodedInstruction : Prop :=
  ∀ (s : State) (tw : TableWord) (rest : List Input) (i : Instr),
    takeEnabled s.block.phase s.pending = some (inputOf tw, rest) →
    decode s.cfg tw = .ok i → i.wellFormed = true →
    step s = exec i { s with pending := rest, epoch := s.epoch + 1 }

/-- R51, R131, R135: an agent that has no step waits and the others move; with none enabled the block waits. The pending
list and the name of the wait are the model's: assumption logs 1 and 6. -/
def Obligations.StepTakesFirstEnabledInput : Prop :=
  (∀ (s : State) (waiting rest : List Input) (x : Input), s.pending = waiting ++ x :: rest →
    (∀ y ∈ waiting, y.enabled s.block.phase = false) → x.enabled s.block.phase = true →
    step s = runInput x { s with pending := waiting ++ rest, epoch := s.epoch + 1 }) ∧
  (∀ s : State, (∀ y ∈ s.pending, y.enabled s.block.phase = false) → step s = .fault .noEnabledStep)

/-- R71, R80: a request in its OUT6 form is the step of its host word; a value without the frame's markers is no
request and stops by name. Model's choice: assumption logs 8 and 14. -/
def Obligations.RequestFormIsItsHostWord : Prop :=
  (∀ (t a b : Byte) (s : State),
    runInput (.hostRequest (frameWord t a b)) s = runInput (.hostWord (encodeWord t a b)) s) ∧
  (∀ (f : FrameWord) (s : State),
    (f.extractLsb' 40 8 ≠ 0xB1#8 ∨ f.extractLsb' 32 8 ≠ 0xB2#8 ∨ f.extractLsb' 0 8 ≠ 0xB6#8) →
    runInput (.hostRequest f) s = .refused .notARequestFrame)

/-- R57, R89: seven bytes given at once act as seven RXBYTE steps in a row. Model's choice of granularity: assumption
log 9. -/
def Obligations.ResultWordIsSevenBytes : Prop :=
  ∀ (s t : State) (g : ResultWord) (rest : List Input),
    Host.Core.run core 7 { s with pending := rxInputs (resultBytes g) ++ rest } = .next t →
    step { s with pending := .rxResult g :: rest } = .next { t with epoch := s.epoch + 1 }

/-! ## Requests -/

/-- R132 with R24 and R133: ENCODE of a defined type, with a zero payload for a query, starts a transaction in IDLE and
in DONE. -/
def Obligations.EncodeStartsTransaction : Prop :=
  ∀ (s : State) (t a b : Byte), Ready s →
    (0x01 ≤ t.toNat ∧ t.toNat ≤ 0x05 → exec (.encode t a b) s = .next (startedCommand t a b s)) ∧
    (0x10 ≤ t.toNat ∧ t.toNat ≤ 0x19 → exec (.encode t 0x00 0x00) s = .next (startedQuery t s))

/-- R132: ENCODE's checks in their order, and its writes, for every host word with HOP 001 in every state. The fault of
the type byte and the payload is `requestFault`, by the ranges of R73. -/
def Obligations.EncodeChecksInOrder : Prop :=
  ∀ (s : State) (w : HostWord), w.extractLsb' 29 3 = 1 →
    runInput (.hostWord w) s =
      if s.block.phase = .fault then .fault .hostStuck
      else if w.extractLsb' 24 5 ≠ 0 then .next (faulted .illegalOperation w s)
      else if s.block.phase = .tx ∨ s.block.phase = .rx then .next (faulted .overlap w s)
      else match requestFault w with
        | some c => .next (faulted c w s)
        | none =>
          if (w.extractLsb' 16 8).toNat ≤ 0x05
          then .next (startedCommand (w.extractLsb' 16 8) (w.extractLsb' 8 8) (w.extractLsb' 0 8) s)
          else .next (startedQuery (w.extractLsb' 16 8) s)

/-- R100 to R104 with the default type codes of R74: each command request starts its transaction. -/
def Obligations.CommandRequestsStart : Prop :=
  ∀ (s : State) (a b : Byte), Ready s → s.cfg = Params.default →
    exec (.toggleLoad a b) s = .next (startedCommand 0x01 a b s) ∧
    exec (.setCurrent a b) s = .next (startedCommand 0x02 a b s) ∧
    exec (.setCutoffVoltage a b) s = .next (startedCommand 0x03 a b s) ∧
    exec (.setTimeout a b) s = .next (startedCommand 0x04 a b s) ∧
    exec (.resetCounters a b) s = .next (startedCommand 0x05 a b s)

/-- R110 to R119 with the default type codes of R74: each query request starts its transaction. -/
def Obligations.QueryRequestsStart : Prop :=
  ∀ s : State, Ready s → s.cfg = Params.default →
    exec .loadEnabled s = .next (startedQuery 0x10 s) ∧
    exec .voltageReading s = .next (startedQuery 0x11 s) ∧
    exec .currentReading s = .next (startedQuery 0x12 s) ∧
    exec .elapsedTime s = .next (startedQuery 0x13 s) ∧
    exec .capacityMilliAmpHours s = .next (startedQuery 0x14 s) ∧
    exec .capacityMilliWattHours s = .next (startedQuery 0x15 s) ∧
    exec .mosfetTemperature s = .next (startedQuery 0x16 s) ∧
    exec .currentSetting s = .next (startedQuery 0x17 s) ∧
    exec .cutoffVoltageSetting s = .next (startedQuery 0x18 s) ∧
    exec .timerSetting s = .next (startedQuery 0x19 s)

/-- R74 with TYPE_CODE as an argument: under every allowed map a request that decodes from a frame starts a transaction
whose TXBUF is that frame. -/
def Obligations.RequestEmitsItsOwnFrame : Prop :=
  ∀ (s : State) (i : Instr) (f : FrameWord), s.cfg.Valid → Ready s → decode s.cfg (.out6 f) = .ok i →
    ∃ t, exec i s = .next t ∧ t.block.phase = .tx ∧ packFrame t.block.txBuf = f ∧
      t.block.reqType = f.extractLsb' 24 8 ∧ t.block.reqP0 = f.extractLsb' 16 8 ∧ t.block.reqP1 = f.extractLsb' 8 8 ∧
      t = { s with block := { s.block with
        reqType := t.block.reqType, reqP0 := t.block.reqP0, reqP1 := t.block.reqP1, reqClass := t.block.reqClass,
        expLen := t.block.expLen, txBuf := t.block.txBuf, txIdx := 0, rxCnt := 0, resKind := .none, resVal := 0,
        phase := .tx } }

/-- R204: a request while a transaction is in flight raises OVERLAP with the refused word in FWORD, and the interrupted
transaction's registers keep their values. -/
def Obligations.RequestInFlightOverlaps : Prop :=
  ∀ (s : State) (t a b : Byte), InFlight s → s.cfg = Params.default →
    exec (.encode t a b) s = .next (faulted .overlap (encodeHW t a b) s) ∧
    exec (.toggleLoad a b) s = .next (faulted .overlap (0x20010000#32 ||| (a.setWidth 32 <<< 8) ||| b.setWidth 32) s) ∧
    exec (.setCurrent a b) s = .next (faulted .overlap (0x20020000#32 ||| (a.setWidth 32 <<< 8) ||| b.setWidth 32) s) ∧
    exec (.setCutoffVoltage a b) s = .next (faulted .overlap (0x20030000#32 ||| (a.setWidth 32 <<< 8) ||| b.setWidth 32) s) ∧
    exec (.setTimeout a b) s = .next (faulted .overlap (0x20040000#32 ||| (a.setWidth 32 <<< 8) ||| b.setWidth 32) s) ∧
    exec (.resetCounters a b) s = .next (faulted .overlap (0x20050000#32 ||| (a.setWidth 32 <<< 8) ||| b.setWidth 32) s) ∧
    exec .loadEnabled s = .next (faulted .overlap 0x20100000 s) ∧
    exec .voltageReading s = .next (faulted .overlap 0x20110000 s) ∧
    exec .currentReading s = .next (faulted .overlap 0x20120000 s) ∧
    exec .elapsedTime s = .next (faulted .overlap 0x20130000 s) ∧
    exec .capacityMilliAmpHours s = .next (faulted .overlap 0x20140000 s) ∧
    exec .capacityMilliWattHours s = .next (faulted .overlap 0x20150000 s) ∧
    exec .mosfetTemperature s = .next (faulted .overlap 0x20160000 s) ∧
    exec .currentSetting s = .next (faulted .overlap 0x20170000 s) ∧
    exec .cutoffVoltageSetting s = .next (faulted .overlap 0x20180000 s) ∧
    exec .timerSetting s = .next (faulted .overlap 0x20190000 s)

/-! ## The other host operations -/

/-- R130: NOP changes no register outside FAULT; with an operand bit set its word raises ILLEGAL_OPERATION; in FAULT it
has no step. -/
def Obligations.NopChangesNothing : Prop :=
  (∀ s : State, s.block.phase ≠ .fault → exec .nop s = .next s) ∧
  (∀ (s : State) (w : HostWord), w.extractLsb' 29 3 = 0 →
    runInput (.hostWord w) s =
      if s.block.phase = .fault then .fault .hostStuck
      else if w ≠ 0x00000000 then .next (faulted .illegalOperation w s)
      else .next s)

/-- R138: ABORT ends a transaction in flight with ABORTED and changes nothing in IDLE and DONE; with an operand bit set
its word raises ILLEGAL_OPERATION; in FAULT it has no step. -/
def Obligations.AbortEndsTransaction : Prop :=
  (∀ s : State, InFlight s → exec .abort s = .next
    { s with block := { s.block with resKind := .aborted, resVal := 0x000000, phase := .done } }) ∧
  (∀ s : State, Ready s → exec .abort s = .next s) ∧
  (∀ (s : State) (w : HostWord), w.extractLsb' 29 3 = 2 →
    runInput (.hostWord w) s =
      if s.block.phase = .fault then .fault .hostStuck
      else if w.extractLsb' 0 29 ≠ 0 then .next (faulted .illegalOperation w s)
      else exec .abort s)

/-- R175: FMTF writes the integer part and the hundredths of `h`, faults above 25599, and its word raises
ILLEGAL_OPERATION on a must-be-zero bit; in FAULT it has no step. -/
def Obligations.FmtfSplitsHundredths : Prop :=
  (∀ (s : State) (h : BitVec 15), s.block.phase ≠ .fault → h.toNat ≤ 25599 →
    ∃ p0 p1 : Byte, p0.toNat = h.toNat / 100 ∧ p1.toNat = h.toNat % 100 ∧
      exec (.fmtf h) s = .next
        { s with block := { s.block with fmtP0 := p0, fmtP1 := p1, fmtValid := true } }) ∧
  (∀ (s : State) (h : BitVec 15), s.block.phase ≠ .fault → 25599 < h.toNat →
    exec (.fmtf h) s = .next (faulted .operandViolation (0x60000000#32 ||| h.setWidth 32) s)) ∧
  (∀ (s : State) (w : HostWord), w.extractLsb' 29 3 = 3 →
    runInput (.hostWord w) s =
      if s.block.phase = .fault then .fault .hostStuck
      else if w.extractLsb' 24 5 ≠ 0 ∨ w.extractLsb' 15 9 ≠ 0 then .next (faulted .illegalOperation w s)
      else exec (.fmtf (w.extractLsb' 0 15)) s)

/-- R176: with `h` the truncated hundredths of a non-negative rational `n / d` whose integer part fits a byte, FMTF gives
the source's two bytes: the integer part and the truncated two decimals. -/
def Obligations.FmtfTruncatesRationals : Prop :=
  ∀ (s : State) (n d : Nat) (h : BitVec 15), s.block.phase ≠ .fault → 0 < d → n / d ≤ 255 → h.toNat = 100 * n / d →
    ∃ t, exec (.fmtf h) s = .next t ∧ t.block.fmtP0.toNat = n / d ∧ t.block.fmtP1.toNat = (n % d) * 100 / d

/-- R177: FMTD writes the seconds modulo 65536, high byte first, for every operand; its word raises ILLEGAL_OPERATION
only on a must-be-zero bit; in FAULT it has no step. -/
def Obligations.FmtdWrapsSeconds : Prop :=
  (∀ (s : State) (sec : BitVec 24), s.block.phase ≠ .fault →
    ∃ p0 p1 : Byte, p0.toNat * 256 + p1.toNat = sec.toNat % 65536 ∧
      exec (.fmtd sec) s = .next
        { s with block := { s.block with fmtP0 := p0, fmtP1 := p1, fmtValid := true } }) ∧
  (∀ (s : State) (w : HostWord), w.extractLsb' 29 3 = 4 →
    runInput (.hostWord w) s =
      if s.block.phase = .fault then .fault .hostStuck
      else if w.extractLsb' 24 5 ≠ 0 then .next (faulted .illegalOperation w s)
      else exec (.fmtd (w.extractLsb' 0 24)) s)

/-- R140: the reserved rows take the ILLEGAL_OPERATION fault in every phase but FAULT, with the word in FWORD. -/
def Obligations.ReservedRowsFault : Prop :=
  ∀ (s : State) (rest : BitVec 29), s.block.phase ≠ .fault →
    exec (.reserved101 rest) s = .next (faulted .illegalOperation (0xA0000000#32 ||| rest.setWidth 32) s) ∧
    exec (.reserved110 rest) s = .next (faulted .illegalOperation (0xC0000000#32 ||| rest.setWidth 32) s) ∧
    exec (.reserved111 rest) s = .next (faulted .illegalOperation (0xE0000000#32 ||| rest.setWidth 32) s)

/-! ## Faults -/

/-- R140, R205: a reserved or malformed host word raises ILLEGAL_OPERATION in every phase but FAULT; every other word
decodes, and outside FAULT its step completes without raising ILLEGAL_OPERATION. -/
def Obligations.MalformedWordsAreIllegal : Prop :=
  (∀ (s : State) (w : HostWord), Malformed w →
    runInput (.hostWord w) s =
      if s.block.phase = .fault then .fault .hostStuck else .next (faulted .illegalOperation w s)) ∧
  (∀ w : HostWord, ¬ Malformed w → ∃ i, decodeHostWord w = .ok i) ∧
  (∀ (s : State) (w : HostWord), ¬ Malformed w → s.block.phase ≠ .fault →
    ∃ t, runInput (.hostWord w) s = .next t ∧ (t.block.phase = .fault → t.block.fCode ≠ .illegalOperation)) ∧
  FCode.code .illegalOperation = 5

/-- R201 to R206, R209: of the faults that apply to a host word exactly the first in R209's order is reported, with the
effect of R200 and no other, and no other agent's step raises one. -/
def Obligations.HostWordFaultPriority : Prop :=
  (∀ (s : State) (w : HostWord), s.block.phase ≠ .fault →
    ∃ o, HostFault s w o ∧
      (∀ c, o = some c → runInput (.hostWord w) s = .next (faulted c w s)) ∧
      (o = none → ∃ t, runInput (.hostWord w) s = .next t ∧ t.block.phase ≠ .fault ∧
        t.block.fCode = s.block.fCode ∧ t.block.fWord = s.block.fWord)) ∧
  (∀ (s : State) (w : HostWord) (o o' : Option FCode), HostFault s w o → HostFault s w o' → o = o') ∧
  (∀ (s t : State) (x : Input), s.block.phase ≠ .fault →
    x = .txPop ∨ (∃ k, x = .rxByte k) ∨ (∃ g, x = .rxResult g) ∨ x = .reset →
    runInput x s = .next t → t.block.phase ≠ .fault) ∧
  FCode.code .invalidCommandType = 1 ∧ FCode.code .invalidQueryType = 2 ∧ FCode.code .invalidRequestType = 3 ∧
  FCode.code .overlap = 4 ∧ FCode.code .illegalOperation = 5 ∧ FCode.code .operandViolation = 6

/-- R200: a step that enters FAULT writes FCODE, FWORD, RES_KIND, RES_VAL and PHASE and nothing else. -/
def Obligations.FaultEntryIsPrecise : Prop :=
  ∀ (s t : State) (x : Input), s.block.phase ≠ .fault → runInput x s = .next t → t.block.phase = .fault →
    t.block.fCode ≠ .none ∧ t = faulted t.block.fCode t.block.fWord s ∧ ∀ w, x = .hostWord w → t.block.fWord = w

/-- R131: in FAULT no host operation has a step, which is where every row the host issues stops by name; outside it the
must-be-zero check comes before any other. -/
def Obligations.HostIsStuckInFault : Prop :=
  (∀ (s : State) (w : HostWord), s.block.phase = .fault →
    runInput (.hostWord w) s = .fault .hostStuck ∧ (Input.hostWord w).enabled s.block.phase = false) ∧
  (∀ (s : State) (i : Instr), s.block.phase = .fault → (∀ k, i ≠ .ackErr k) → i ≠ .ackOk →
    (∀ v0 v1 v2, i ≠ .queryResult v0 v1 v2) → exec i s = .fault .hostStuck) ∧
  (∀ (s : State) (w : HostWord), s.block.phase ≠ .fault → Malformed w →
    runInput (.hostWord w) s = .next (faulted .illegalOperation w s))

/-- R212: whatever the agents do short of RESET, for however many steps, FAULT keeps every register and emits nothing. -/
def Obligations.FaultIsStickyUntilReset : Prop :=
  ∀ (n : Nat) (s t : State), s.block.phase = .fault → Input.reset ∉ s.pending →
    Host.Core.run core n s = .next t → t.block = s.block ∧ t.wire = s.wire

/-! ## Emission and capture -/

/-- R135: while PHASE = TX the byte on offer is `TXBUF[TXIDX]`; in every other phase there is none. -/
def Obligations.TxOfferByPhase : Prop :=
  ∀ (s : State), BlockInv s.block →
    (s.block.phase = .tx → ∃ h : s.block.txIdx.toNat < 6, txOffer s.block = some s.block.txBuf[s.block.txIdx.toNat]) ∧
    (s.block.phase ≠ .tx → txOffer s.block = none ∧ runInput .txPop s = .fault .txNotOffered ∧
      Input.txPop.enabled s.block.phase = false)

/-- R136: TXPOP hands `TXBUF[TXIDX]` to the channel and advances; the sixth opens the capture; it is enabled only
in TX. -/
def Obligations.TxPopEmitsAndAdvances : Prop :=
  (∀ (s : State) (h : s.block.txIdx.toNat < 6), s.block.phase = .tx →
    runInput .txPop s = .next
      { s with
        wire := s.wire ++ [s.block.txBuf[s.block.txIdx.toNat]]
        block := if s.block.txIdx.toNat = 5
          then { s.block with txIdx := 6, rxCnt := 0, phase := .rx }
          else { s.block with txIdx := s.block.txIdx + 1 } }) ∧
  (∀ s : State, s.block.phase ≠ .tx → Input.txPop.enabled s.block.phase = false)

/-- Outside RX every response byte is dropped: one at a time as R150 says, and as a whole response in one step, which is
the model's choice of granularity (assumption log 9). -/
def Obligations.DroppedOutsideCapture : Prop :=
  ∀ (s : State) (k v0 v1 v2 : Byte) (g : ResultWord), s.block.phase ≠ .rx →
    runInput (.rxByte k) s = .next s ∧ runInput (.rxResult g) s = .next s ∧
    exec .ackOk s = .next s ∧ exec (.ackErr k) s = .next s ∧ exec (.queryResult v0 v1 v2) s = .next s

/-- R151: in RX the byte is captured at RXCNT; at EXPLEN bytes, and only then, the response is decoded by the request's
class and type and the transaction is DONE. -/
def Obligations.CaptureStoresAndCompletes : Prop :=
  ∀ (s : State) (k : Byte), BlockInv s.block → s.block.phase = .rx →
    ∃ h : s.block.rxCnt.toNat < 7,
      (s.block.rxCnt.toNat + 1 < s.block.expLen.toNat → runInput (.rxByte k) s = .next
        { s with block := { s.block with
            rxBuf := s.block.rxBuf.set s.block.rxCnt.toNat k h, rxCnt := s.block.rxCnt + 1 } }) ∧
      (s.block.rxCnt.toNat + 1 = s.block.expLen.toNat →
        ∃ r, decodeResponse s.cfg s.block.reqClass s.block.reqType
            ((s.block.rxBuf.set s.block.rxCnt.toNat k h).toList.take s.block.expLen.toNat) = some r ∧
          runInput (.rxByte k) s = .next
            (captured (s.block.rxBuf.set s.block.rxCnt.toNat k h) (s.block.rxCnt + 1) r.kind r.val s))

/-- R155: the one byte of a command's response is ACK_OK when it is 0x6F and ACK_ERR with the byte kept otherwise. -/
def Obligations.CommandAcknowledged : Prop :=
  ∀ s : State, s.block.phase = .rx → s.block.reqClass = .cmd → s.block.rxCnt = 0 → s.block.expLen = 1 →
    exec .ackOk s = .next (captured (s.block.rxBuf.set 0 0x6F) 1 .ackOk 0x000000 s) ∧
    (∀ k : Byte, k ≠ 0x6F →
      exec (.ackErr k) s = .next (captured (s.block.rxBuf.set 0 k) 1 .ackErr (k.setWidth 24) s))

/-- R156, R157, R170 to R172: the seven bytes of a query's response give INVALID_RESPONSE when any marker is wrong and
the value of the type's kind when all are right; RXBUF keeps all seven. -/
def Obligations.QueryResponseDecoded : Prop :=
  ∀ (s : State) (kind : ValueKind) (r : Vector Byte 7), s.block.phase = .rx → s.block.reqClass = .qry →
    s.block.rxCnt = 0 → s.block.expLen = 7 → s.cfg.kindOf s.block.reqType = some kind →
    ∃ k v, queryOutcome kind r k v ∧ rxSeq r.toList s = .next (captured r 7 k v s)

/-- R78, R157: the QUERY_RESULT row arriving after a query's request gives the value of the type's kind. That its seven
bytes arrive in one step is the model's choice (assumption log 9). -/
def Obligations.QueryResultCompletes : Prop :=
  ∀ (s : State) (kind : ValueKind) (v0 v1 v2 : Byte), s.block.phase = .rx → s.block.reqClass = .qry →
    s.block.rxCnt = 0 → s.block.expLen = 7 → s.cfg.kindOf s.block.reqType = some kind →
    ∃ k v, valueResult kind v0 v1 v2 k v ∧
      exec (.queryResult v0 v1 v2) s = .next (captured #v[0xCA, 0xCB, v0, v1, v2, 0xCE, 0xCF] 7 k v s)

/-- R152, R153: from the start of a capture, fewer bytes than EXPLEN leave the block in RX with those bytes kept, and
EXPLEN or more leave the state the first EXPLEN of them gave, in DONE. -/
def Obligations.CaptureLengthEnforced : Prop :=
  ∀ (s : State) (ks : List Byte), BlockInv s.block → s.block.phase = .rx → s.block.rxCnt = 0 →
    (ks.length < s.block.expLen.toNat → ∃ t, rxSeq ks s = .next t ∧ t.block.phase = .rx ∧
      t.block.rxCnt.toNat = ks.length ∧ t.block.rxBuf.toList.take ks.length = ks) ∧
    (s.block.expLen.toNat ≤ ks.length → ∃ t, rxSeq ks s = .next t ∧ t.block.phase = .done ∧
      rxSeq (ks.take s.block.expLen.toNat) s = .next t ∧ t.block.rxCnt = s.block.expLen ∧
      t.block.rxBuf.toList.take s.block.expLen.toNat = ks.take s.block.expLen.toNat)

/-- R60, R136, R238: six TXPOPs with any response bytes between them put the whole frame on the wire and start a capture
of nothing: no byte before the sixth TXPOP is taken as a response. -/
def Obligations.StaleInputIsDropped : Prop :=
  ∀ (s : State) (xs rest : List Input), BlockInv s.block → s.block.phase = .tx → s.block.txIdx = 0 →
    (∀ x ∈ xs, x = .txPop ∨ ∃ k, x = .rxByte k) → xs.countP (· == Input.txPop) = 5 →
    s.pending = xs ++ .txPop :: rest →
    Host.Core.run core (xs.length + 1) s = .next
      { s with
        block := { s.block with txIdx := 6, phase := .rx }
        wire := s.wire ++ s.block.txBuf.toList
        pending := rest
        epoch := s.epoch + (xs.length + 1) }

/-! ## Whole transactions -/

/-- R100 to R104 (40_commands.md, common pseudocode): a command word, six TXPOPs and one response byte, for every
command type, payload and byte: what goes out on the wire and what the block holds at the end. -/
def Obligations.CommandTransaction : Prop :=
  ∀ (s : State) (t a b k : Byte) (rest : List Input), Ready s → 0x01 ≤ t.toNat → t.toNat ≤ 0x05 →
    s.pending = .hostWord (encodeHW t a b) :: (send6 ++ rxInputs [k] ++ rest) →
    Host.Core.run core 8 s = .next
      { s with
        wire := s.wire ++ [0xB1, 0xB2, t, a, b, 0xB6]
        pending := rest
        epoch := s.epoch + 8
        block := { s.block with
          reqType := t, reqP0 := a, reqP1 := b, reqClass := .cmd, expLen := 1
          txBuf := #v[0xB1, 0xB2, t, a, b, 0xB6], txIdx := 6
          rxBuf := s.block.rxBuf.set 0 k, rxCnt := 1
          resKind := if k = 0x6F then .ackOk else .ackErr
          resVal := if k = 0x6F then 0x000000 else k.setWidth 24
          phase := .done } }

/-- R110 to R119 (41_queries.md, common pseudocode) under every QUERY_KIND: a query word, six TXPOPs and seven response
bytes, for every query type and all seven bytes. -/
def Obligations.QueryTransaction : Prop :=
  ∀ (s : State) (t : Byte) (r : Vector Byte 7) (rest : List Input), Ready s → 0x10 ≤ t.toNat → t.toNat ≤ 0x19 →
    s.pending = .hostWord (encodeHW t 0x00 0x00) :: (send6 ++ rxInputs r.toList ++ rest) →
    ∃ kind k v, s.cfg.kindOf t = some kind ∧ queryOutcome kind r k v ∧
      Host.Core.run core 14 s = .next
        { s with
          wire := s.wire ++ [0xB1, 0xB2, t, 0x00, 0x00, 0xB6]
          pending := rest
          epoch := s.epoch + 14
          block := { s.block with
            reqType := t, reqP0 := 0x00, reqP1 := 0x00, reqClass := .qry, expLen := 7
            txBuf := #v[0xB1, 0xB2, t, 0x00, 0x00, 0xB6], txIdx := 6
            rxBuf := r, rxCnt := 7, resKind := k, resVal := v, phase := .done } }

/-! ## Reset -/

/-- R230, R37: RESET has a step in every phase and gives every register its reset value; no other step leaves FAULT. Only
the registers R37 gives a value are stated. That the parameters, the pending steps, the wire and the epoch keep theirs is
the model's reading of R232 (assumption log 16). -/
def Obligations.ResetRestoresTheBlock : Prop :=
  (∀ (s t : State) (x : Input), s.block.phase = .fault → x ≠ .reset → runInput x s = .next t →
    t.block.phase = .fault) ∧
  ∀ s : State, Input.reset.enabled s.block.phase = true ∧ ∃ t, runInput .reset s = .next t ∧
    t.block.phase = .idle ∧ t.block.expLen = 0 ∧ t.block.txIdx = 0 ∧ t.block.rxCnt = 0 ∧
    t.block.resKind = .none ∧ t.block.resVal = 0x000000 ∧ t.block.fCode = .none ∧ t.block.fWord = 0x00000000 ∧
    t.block.fmtValid = false ∧ readStatus t = 0x00000000 ∧
    t.cfg = s.cfg ∧ t.pending = s.pending ∧ t.wire = s.wire ∧ t.epoch = s.epoch

/-- R231, R37: the power-on state is the reset state, and it satisfies the invariants. -/
def Obligations.ResetSatisfiesInvariants : Prop :=
  BlockInv State.reset.block ∧ WireInv State.reset ∧ State.reset.cfg.Valid ∧ readStatus State.reset = 0x00000000

/-! ## Host reads -/

/-- R34: the fields of STATUS, bit by bit, with the codes of R21, R23, R29 and R31. Bit 18 is 0 while EXPLEN = 0, that is
while no ENCODE has been accepted since reset (R24). -/
def Obligations.StatusWordFields : Prop :=
  ∀ s : State,
    ((readStatus s).extractLsb' 0 3).toNat =
      (match s.block.phase with | .idle => 0 | .tx => 1 | .rx => 2 | .done => 3 | .fault => 4) ∧
    ((readStatus s).extractLsb' 3 3).toNat =
      (match s.block.resKind with
        | .none => 0 | .ackOk => 1 | .ackErr => 2 | .bool => 3 | .u24 => 4 | .dur => 5 | .invalidResponse => 6
        | .aborted => 7) ∧
    ((readStatus s).extractLsb' 6 3).toNat =
      (match s.block.fCode with
        | .none => 0 | .invalidCommandType => 1 | .invalidQueryType => 2 | .invalidRequestType => 3 | .overlap => 4
        | .illegalOperation => 5 | .operandViolation => 6) ∧
    (readStatus s).extractLsb' 9 3 = s.block.txIdx ∧
    (readStatus s).extractLsb' 12 3 = s.block.rxCnt ∧
    (readStatus s).extractLsb' 15 3 = s.block.expLen ∧
    ((readStatus s).extractLsb' 18 1).toNat =
      (if s.block.expLen = 0 then 0 else match s.block.reqClass with | .cmd => 0 | .qry => 1) ∧
    (readStatus s).extractLsb' 19 1 = BitVec.ofBool s.block.fmtValid ∧
    (readStatus s).extractLsb' 20 12 = 0

/-- R30, R11: RES_KIND and RES_VAL carry every result without loss: reading them back gives the result written. -/
def Obligations.ResultRegistersCarryTheResult : Prop :=
  ∀ (s : State) (r : Result),
    readResult { s with block := { s.block with resKind := r.kind, resVal := r.val } } = some r

/-- R27, R33: a read of RXBUF below RXCNT and of FMT_P0, FMT_P1 once valid gives the register, whatever the free values
are (assumption log 5). -/
def Obligations.DefinedReadsGiveTheRegister : Prop :=
  (∀ (s : State) (i : Fin 7), i.val < s.block.rxCnt.toNat → readRxBuf s i = s.block.rxBuf[i]) ∧
  (∀ s : State, s.block.fmtValid = true → readFmtP0 s = s.block.fmtP0 ∧ readFmtP1 s = s.block.fmtP1)

/-! ## Whole-machine rules -/

/-- An instruction writes the block only; the parameters, the agents' pending steps, the wire and the epoch keep their
values (R36). -/
def Obligations.ExecTouchesOnlyTheBlock : Prop :=
  ∀ (i : Instr) (s t : State), exec i s = .next t → t = { s with block := t.block }

/-- R135, R136: only TXPOP emits, it emits the byte on offer, and no agent's step changes the parameters. -/
def Obligations.OnlyTxPopEmits : Prop :=
  ∀ (x : Input) (s t : State), runInput x s = .next t →
    t.cfg = s.cfg ∧
    ((x = .txPop ∧ ∃ k, txOffer s.block = some k ∧ t.wire = s.wire ++ [k]) ∨ (x ≠ .txPop ∧ t.wire = s.wire))

/-- R38 and the rules it is derived from: every step of the machine, from every state that satisfies the invariants, keeps
them. -/
def Obligations.StepKeepsInvariants : Prop :=
  ∀ s t : State, BlockInv s.block → step s = .next t → BlockInv t.block

/-- R26, R136, R139: every step keeps it that the wire ends with the part of the frame TXIDX counts. -/
def Obligations.StepKeepsWirePrefix : Prop :=
  ∀ s t : State, BlockInv s.block → WireInv s → step s = .next t → WireInv t

/-- From a state that satisfies the invariants, a pending step that is enabled is taken and completes; the model's own
faults for unreachable states are not raised. A request without the frame's markers is the one thing refused
(assumption logs 6, 11, 14). -/
def Obligations.EnabledStepsComplete : Prop :=
  ∀ (s : State) (x : Input) (rest : List Input), BlockInv s.block →
    takeEnabled s.block.phase s.pending = some (x, rest) →
    (∀ f, x = .hostRequest f → frameMarkersOk f = true) → ∃ t, step s = .next t

/-- R33, R174: FMTF and FMTD and the transaction do not interfere: states that differ only in FMT_P0, FMT_P1, FMT_VALID
take the same step to states that differ only there. -/
def Obligations.FormatterDoesNotInterfere : Prop :=
  ∀ s t s' : State, SameButFormat s t → step s = .next s' → ∃ t', step t = .next t' ∧ SameButFormat s' t'

/-- U1, U2, U3: what an unspecified register holds never shows: states that agree on every register that has a value step
alike, and the host and the channel see the same of both. -/
def Obligations.UnspecifiedRegistersNeverShow : Prop :=
  ∀ s t : State, BlockInv s.block → BlockInv t.block → SameView s t →
    (readStatus s = readStatus t ∧ readResult s = readResult t ∧ readFWord s = readFWord t ∧
      (∀ i, readRxBuf s i = readRxBuf t i) ∧ readFmtP0 s = readFmtP0 t ∧ readFmtP1 s = readFmtP1 t ∧
      txOffer s.block = txOffer t.block) ∧
    (∀ s', step s = .next s' → ∃ t', step t = .next t' ∧ SameView s' t')

/-! ## The host contract -/

/-- R215, R76, R209: a host that keeps its contract never faults the block, for however many steps and whatever the channel and
the reset source do. -/
def Obligations.ContractHostNeverFaults : Prop :=
  ∀ (n : Nat) (s t : State), BlockInv s.block → s.cfg.Valid → s.block.phase ≠ .fault → runKeepsContract n s →
    Host.Core.run core n s = .next t → t.block.phase ≠ .fault

/-- R216, R217: the host makes at most RETRY_COUNT attempts in all, exactly that many when every one ends in
INVALID_RESPONSE, and none after the first that ends otherwise. -/
def Obligations.RetryCountsAttempts : Prop :=
  (∀ (n : Nat) (ks : List ResKind), 0 < n → attempts n 0 ks ≤ n) ∧
  (∀ n m : Nat, 0 < n → n ≤ m → attempts n 0 (List.replicate m .invalidResponse) = n) ∧
  (∀ (n j : Nat) (k : ResKind) (ks : List ResKind), j < n → k ≠ .invalidResponse →
    attempts n 0 (List.replicate j .invalidResponse ++ k :: ks) = j + 1)
end

