-- ==== Sys2Proof/Laws/State.lean ====
section
/-! SUPPORT. One lemma per field for each update of the state, so that no later proof unfolds a record update. -/

namespace Sys2Proof.Machine

/-! ### raiseFault -/

@[simp] theorem raiseFault_phase (code : FCode) (w : HostWord) (s : State) : (raiseFault code w s).block.phase = .fault := rfl
@[simp] theorem raiseFault_reqType (code : FCode) (w : HostWord) (s : State) : (raiseFault code w s).block.reqType = s.block.reqType := rfl
@[simp] theorem raiseFault_reqP0 (code : FCode) (w : HostWord) (s : State) : (raiseFault code w s).block.reqP0 = s.block.reqP0 := rfl
@[simp] theorem raiseFault_reqP1 (code : FCode) (w : HostWord) (s : State) : (raiseFault code w s).block.reqP1 = s.block.reqP1 := rfl
@[simp] theorem raiseFault_reqClass (code : FCode) (w : HostWord) (s : State) : (raiseFault code w s).block.reqClass = s.block.reqClass := rfl
@[simp] theorem raiseFault_expLen (code : FCode) (w : HostWord) (s : State) : (raiseFault code w s).block.expLen = s.block.expLen := rfl
@[simp] theorem raiseFault_txBuf (code : FCode) (w : HostWord) (s : State) : (raiseFault code w s).block.txBuf = s.block.txBuf := rfl
@[simp] theorem raiseFault_txIdx (code : FCode) (w : HostWord) (s : State) : (raiseFault code w s).block.txIdx = s.block.txIdx := rfl
@[simp] theorem raiseFault_rxBuf (code : FCode) (w : HostWord) (s : State) : (raiseFault code w s).block.rxBuf = s.block.rxBuf := rfl
@[simp] theorem raiseFault_rxCnt (code : FCode) (w : HostWord) (s : State) : (raiseFault code w s).block.rxCnt = s.block.rxCnt := rfl
@[simp] theorem raiseFault_resKind (code : FCode) (w : HostWord) (s : State) : (raiseFault code w s).block.resKind = .none := rfl
@[simp] theorem raiseFault_resVal (code : FCode) (w : HostWord) (s : State) : (raiseFault code w s).block.resVal = 0 := rfl
@[simp] theorem raiseFault_fCode (code : FCode) (w : HostWord) (s : State) : (raiseFault code w s).block.fCode = code := rfl
@[simp] theorem raiseFault_fWord (code : FCode) (w : HostWord) (s : State) : (raiseFault code w s).block.fWord = w := rfl
@[simp] theorem raiseFault_fmtP0 (code : FCode) (w : HostWord) (s : State) : (raiseFault code w s).block.fmtP0 = s.block.fmtP0 := rfl
@[simp] theorem raiseFault_fmtP1 (code : FCode) (w : HostWord) (s : State) : (raiseFault code w s).block.fmtP1 = s.block.fmtP1 := rfl
@[simp] theorem raiseFault_fmtValid (code : FCode) (w : HostWord) (s : State) : (raiseFault code w s).block.fmtValid = s.block.fmtValid := rfl
@[simp] theorem raiseFault_cfg (code : FCode) (w : HostWord) (s : State) : (raiseFault code w s).cfg = s.cfg := rfl
@[simp] theorem raiseFault_pending (code : FCode) (w : HostWord) (s : State) : (raiseFault code w s).pending = s.pending := rfl
@[simp] theorem raiseFault_wire (code : FCode) (w : HostWord) (s : State) : (raiseFault code w s).wire = s.wire := rfl
@[simp] theorem raiseFault_epoch (code : FCode) (w : HostWord) (s : State) : (raiseFault code w s).epoch = s.epoch := rfl

/-! ### acceptRequest -/

@[simp] theorem acceptRequest_phase (c : ReqClass) (t a b : Byte) (s : State) : (acceptRequest c t a b s).block.phase = .tx := rfl
@[simp] theorem acceptRequest_reqType (c : ReqClass) (t a b : Byte) (s : State) : (acceptRequest c t a b s).block.reqType = t := rfl
@[simp] theorem acceptRequest_reqP0 (c : ReqClass) (t a b : Byte) (s : State) : (acceptRequest c t a b s).block.reqP0 = a := rfl
@[simp] theorem acceptRequest_reqP1 (c : ReqClass) (t a b : Byte) (s : State) : (acceptRequest c t a b s).block.reqP1 = b := rfl
@[simp] theorem acceptRequest_reqClass (c : ReqClass) (t a b : Byte) (s : State) : (acceptRequest c t a b s).block.reqClass = c := rfl
@[simp] theorem acceptRequest_expLen (c : ReqClass) (t a b : Byte) (s : State) : (acceptRequest c t a b s).block.expLen = responseLength c := rfl
@[simp] theorem acceptRequest_txBuf (c : ReqClass) (t a b : Byte) (s : State) : (acceptRequest c t a b s).block.txBuf = frame t a b := rfl
@[simp] theorem acceptRequest_txIdx (c : ReqClass) (t a b : Byte) (s : State) : (acceptRequest c t a b s).block.txIdx = 0 := rfl
@[simp] theorem acceptRequest_rxBuf (c : ReqClass) (t a b : Byte) (s : State) : (acceptRequest c t a b s).block.rxBuf = s.block.rxBuf := rfl
@[simp] theorem acceptRequest_rxCnt (c : ReqClass) (t a b : Byte) (s : State) : (acceptRequest c t a b s).block.rxCnt = 0 := rfl
@[simp] theorem acceptRequest_resKind (c : ReqClass) (t a b : Byte) (s : State) : (acceptRequest c t a b s).block.resKind = .none := rfl
@[simp] theorem acceptRequest_resVal (c : ReqClass) (t a b : Byte) (s : State) : (acceptRequest c t a b s).block.resVal = 0 := rfl
@[simp] theorem acceptRequest_fCode (c : ReqClass) (t a b : Byte) (s : State) : (acceptRequest c t a b s).block.fCode = s.block.fCode := rfl
@[simp] theorem acceptRequest_fWord (c : ReqClass) (t a b : Byte) (s : State) : (acceptRequest c t a b s).block.fWord = s.block.fWord := rfl
@[simp] theorem acceptRequest_fmtP0 (c : ReqClass) (t a b : Byte) (s : State) : (acceptRequest c t a b s).block.fmtP0 = s.block.fmtP0 := rfl
@[simp] theorem acceptRequest_fmtP1 (c : ReqClass) (t a b : Byte) (s : State) : (acceptRequest c t a b s).block.fmtP1 = s.block.fmtP1 := rfl
@[simp] theorem acceptRequest_fmtValid (c : ReqClass) (t a b : Byte) (s : State) : (acceptRequest c t a b s).block.fmtValid = s.block.fmtValid := rfl
@[simp] theorem acceptRequest_cfg (c : ReqClass) (t a b : Byte) (s : State) : (acceptRequest c t a b s).cfg = s.cfg := rfl
@[simp] theorem acceptRequest_pending (c : ReqClass) (t a b : Byte) (s : State) : (acceptRequest c t a b s).pending = s.pending := rfl
@[simp] theorem acceptRequest_wire (c : ReqClass) (t a b : Byte) (s : State) : (acceptRequest c t a b s).wire = s.wire := rfl
@[simp] theorem acceptRequest_epoch (c : ReqClass) (t a b : Byte) (s : State) : (acceptRequest c t a b s).epoch = s.epoch := rfl

/-! ### writeFormat -/

@[simp] theorem writeFormat_phase (p0 p1 : Byte) (s : State) : (writeFormat p0 p1 s).block.phase = s.block.phase := rfl
@[simp] theorem writeFormat_reqType (p0 p1 : Byte) (s : State) : (writeFormat p0 p1 s).block.reqType = s.block.reqType := rfl
@[simp] theorem writeFormat_reqP0 (p0 p1 : Byte) (s : State) : (writeFormat p0 p1 s).block.reqP0 = s.block.reqP0 := rfl
@[simp] theorem writeFormat_reqP1 (p0 p1 : Byte) (s : State) : (writeFormat p0 p1 s).block.reqP1 = s.block.reqP1 := rfl
@[simp] theorem writeFormat_reqClass (p0 p1 : Byte) (s : State) : (writeFormat p0 p1 s).block.reqClass = s.block.reqClass := rfl
@[simp] theorem writeFormat_expLen (p0 p1 : Byte) (s : State) : (writeFormat p0 p1 s).block.expLen = s.block.expLen := rfl
@[simp] theorem writeFormat_txBuf (p0 p1 : Byte) (s : State) : (writeFormat p0 p1 s).block.txBuf = s.block.txBuf := rfl
@[simp] theorem writeFormat_txIdx (p0 p1 : Byte) (s : State) : (writeFormat p0 p1 s).block.txIdx = s.block.txIdx := rfl
@[simp] theorem writeFormat_rxBuf (p0 p1 : Byte) (s : State) : (writeFormat p0 p1 s).block.rxBuf = s.block.rxBuf := rfl
@[simp] theorem writeFormat_rxCnt (p0 p1 : Byte) (s : State) : (writeFormat p0 p1 s).block.rxCnt = s.block.rxCnt := rfl
@[simp] theorem writeFormat_resKind (p0 p1 : Byte) (s : State) : (writeFormat p0 p1 s).block.resKind = s.block.resKind := rfl
@[simp] theorem writeFormat_resVal (p0 p1 : Byte) (s : State) : (writeFormat p0 p1 s).block.resVal = s.block.resVal := rfl
@[simp] theorem writeFormat_fCode (p0 p1 : Byte) (s : State) : (writeFormat p0 p1 s).block.fCode = s.block.fCode := rfl
@[simp] theorem writeFormat_fWord (p0 p1 : Byte) (s : State) : (writeFormat p0 p1 s).block.fWord = s.block.fWord := rfl
@[simp] theorem writeFormat_fmtP0 (p0 p1 : Byte) (s : State) : (writeFormat p0 p1 s).block.fmtP0 = p0 := rfl
@[simp] theorem writeFormat_fmtP1 (p0 p1 : Byte) (s : State) : (writeFormat p0 p1 s).block.fmtP1 = p1 := rfl
@[simp] theorem writeFormat_fmtValid (p0 p1 : Byte) (s : State) : (writeFormat p0 p1 s).block.fmtValid = true := rfl
@[simp] theorem writeFormat_cfg (p0 p1 : Byte) (s : State) : (writeFormat p0 p1 s).cfg = s.cfg := rfl
@[simp] theorem writeFormat_pending (p0 p1 : Byte) (s : State) : (writeFormat p0 p1 s).pending = s.pending := rfl
@[simp] theorem writeFormat_wire (p0 p1 : Byte) (s : State) : (writeFormat p0 p1 s).wire = s.wire := rfl
@[simp] theorem writeFormat_epoch (p0 p1 : Byte) (s : State) : (writeFormat p0 p1 s).epoch = s.epoch := rfl

/-! ### resetBlock -/

@[simp] theorem resetBlock_phase (s : State) : (resetBlock s).block.phase = .idle := rfl
@[simp] theorem resetBlock_reqType (s : State) : (resetBlock s).block.reqType = 0 := rfl
@[simp] theorem resetBlock_reqP0 (s : State) : (resetBlock s).block.reqP0 = 0 := rfl
@[simp] theorem resetBlock_reqP1 (s : State) : (resetBlock s).block.reqP1 = 0 := rfl
@[simp] theorem resetBlock_reqClass (s : State) : (resetBlock s).block.reqClass = .cmd := rfl
@[simp] theorem resetBlock_expLen (s : State) : (resetBlock s).block.expLen = 0 := rfl
@[simp] theorem resetBlock_txBuf (s : State) : (resetBlock s).block.txBuf = Vector.replicate 6 0 := rfl
@[simp] theorem resetBlock_txIdx (s : State) : (resetBlock s).block.txIdx = 0 := rfl
@[simp] theorem resetBlock_rxBuf (s : State) : (resetBlock s).block.rxBuf = Vector.replicate 7 0 := rfl
@[simp] theorem resetBlock_rxCnt (s : State) : (resetBlock s).block.rxCnt = 0 := rfl
@[simp] theorem resetBlock_resKind (s : State) : (resetBlock s).block.resKind = .none := rfl
@[simp] theorem resetBlock_resVal (s : State) : (resetBlock s).block.resVal = 0 := rfl
@[simp] theorem resetBlock_fCode (s : State) : (resetBlock s).block.fCode = .none := rfl
@[simp] theorem resetBlock_fWord (s : State) : (resetBlock s).block.fWord = 0 := rfl
@[simp] theorem resetBlock_fmtP0 (s : State) : (resetBlock s).block.fmtP0 = 0 := rfl
@[simp] theorem resetBlock_fmtP1 (s : State) : (resetBlock s).block.fmtP1 = 0 := rfl
@[simp] theorem resetBlock_fmtValid (s : State) : (resetBlock s).block.fmtValid = false := rfl
@[simp] theorem resetBlock_cfg (s : State) : (resetBlock s).cfg = s.cfg := rfl
@[simp] theorem resetBlock_pending (s : State) : (resetBlock s).pending = s.pending := rfl
@[simp] theorem resetBlock_wire (s : State) : (resetBlock s).wire = s.wire := rfl
@[simp] theorem resetBlock_epoch (s : State) : (resetBlock s).epoch = s.epoch := rfl

/-! ### consume -/

@[simp] theorem consume_block (rest : List Input) (s : State) : (consume rest s).block = s.block := rfl
@[simp] theorem consume_cfg (rest : List Input) (s : State) : (consume rest s).cfg = s.cfg := rfl
@[simp] theorem consume_pending (rest : List Input) (s : State) : (consume rest s).pending = rest := rfl
@[simp] theorem consume_wire (rest : List Input) (s : State) : (consume rest s).wire = s.wire := rfl
@[simp] theorem consume_epoch (rest : List Input) (s : State) : (consume rest s).epoch = s.epoch + 1 := rfl

/-! ### finishCapture -/

@[simp] theorem finishCapture_phase (r : Result) (b : Block) : (finishCapture r b).phase = .done := rfl
@[simp] theorem finishCapture_reqType (r : Result) (b : Block) : (finishCapture r b).reqType = b.reqType := rfl
@[simp] theorem finishCapture_reqP0 (r : Result) (b : Block) : (finishCapture r b).reqP0 = b.reqP0 := rfl
@[simp] theorem finishCapture_reqP1 (r : Result) (b : Block) : (finishCapture r b).reqP1 = b.reqP1 := rfl
@[simp] theorem finishCapture_reqClass (r : Result) (b : Block) : (finishCapture r b).reqClass = b.reqClass := rfl
@[simp] theorem finishCapture_expLen (r : Result) (b : Block) : (finishCapture r b).expLen = b.expLen := rfl
@[simp] theorem finishCapture_txBuf (r : Result) (b : Block) : (finishCapture r b).txBuf = b.txBuf := rfl
@[simp] theorem finishCapture_txIdx (r : Result) (b : Block) : (finishCapture r b).txIdx = b.txIdx := rfl
@[simp] theorem finishCapture_rxBuf (r : Result) (b : Block) : (finishCapture r b).rxBuf = b.rxBuf := rfl
@[simp] theorem finishCapture_rxCnt (r : Result) (b : Block) : (finishCapture r b).rxCnt = b.rxCnt := rfl
@[simp] theorem finishCapture_resKind (r : Result) (b : Block) : (finishCapture r b).resKind = r.kind := rfl
@[simp] theorem finishCapture_resVal (r : Result) (b : Block) : (finishCapture r b).resVal = r.val := rfl
@[simp] theorem finishCapture_fCode (r : Result) (b : Block) : (finishCapture r b).fCode = b.fCode := rfl
@[simp] theorem finishCapture_fWord (r : Result) (b : Block) : (finishCapture r b).fWord = b.fWord := rfl
@[simp] theorem finishCapture_fmtP0 (r : Result) (b : Block) : (finishCapture r b).fmtP0 = b.fmtP0 := rfl
@[simp] theorem finishCapture_fmtP1 (r : Result) (b : Block) : (finishCapture r b).fmtP1 = b.fmtP1 := rfl
@[simp] theorem finishCapture_fmtValid (r : Result) (b : Block) : (finishCapture r b).fmtValid = b.fmtValid := rfl

end Sys2Proof.Machine
end

