-- ==== Sys2Proof/Laws/Ops.lean ====
section
/-! SUPPORT. For each shared operation one lemma that says what it can do, and the small lemmas of the definitions. The
proofs over the machine cite these instead of unfolding the operations. -/

namespace Sys2Proof.Machine

/-! ## Request types -/

theorem isCommandType_iff (t : Byte) : isCommandType t = true ↔ 1 ≤ t.toNat ∧ t.toNat ≤ 5 := by
  simp [isCommandType, BitVec.le_def]

theorem isQueryType_iff (t : Byte) : isQueryType t = true ↔ 16 ≤ t.toNat ∧ t.toNat ≤ 25 := by
  simp [isQueryType, BitVec.le_def]

theorem classify_command {t : Byte} (h : isCommandType t = true) : classify t = .cmd := by
  simp [classify, h]

theorem classify_query {t : Byte} (h : isQueryType t = true) : classify t = .qry := by
  have hq := (isQueryType_iff t).1 h
  have hc : isCommandType t = false := by
    rw [Bool.eq_false_iff, ne_eq, isCommandType_iff]; omega
  have hl : ¬ t < 0x10#8 := by simp [BitVec.lt_def]; omega
  simp [classify, hc, h, hl]

/-- What `classify` answers, by the ranges of R73. -/
theorem classify_cases (t : Byte) :
    (classify t = .cmd ∧ 1 ≤ t.toNat ∧ t.toNat ≤ 5) ∨
    (classify t = .undefinedType .invalidCommandType ∧ (t.toNat = 0 ∨ 6 ≤ t.toNat ∧ t.toNat ≤ 15)) ∨
    (classify t = .qry ∧ 16 ≤ t.toNat ∧ t.toNat ≤ 25) ∨
    (classify t = .undefinedType .invalidQueryType ∧ 26 ≤ t.toNat ∧ t.toNat ≤ 31) ∨
    (classify t = .undefinedType .invalidRequestType ∧ 32 ≤ t.toNat) := by
  by_cases hc : isCommandType t = true
  · exact .inl ⟨classify_command hc, (isCommandType_iff t).1 hc⟩
  · have hcn := hc
    rw [isCommandType_iff] at hcn
    by_cases h16 : t < 0x10#8
    · refine .inr (.inl ⟨by simp [classify, hc, h16], ?_⟩)
      simp [BitVec.lt_def] at h16; omega
    · have h16n : 16 ≤ t.toNat := by simpa [BitVec.lt_def] using h16
      by_cases hq : isQueryType t = true
      · exact .inr (.inr (.inl ⟨classify_query hq, (isQueryType_iff t).1 hq⟩))
      · have hqn := hq
        rw [isQueryType_iff] at hqn
        by_cases h32 : t < 0x20#8
        · refine .inr (.inr (.inr (.inl ⟨by simp [classify, hc, h16, hq, h32], ?_⟩)))
          simp [BitVec.lt_def] at h32; omega
        · refine .inr (.inr (.inr (.inr ⟨by simp [classify, hc, h16, hq, h32], ?_⟩)))
          simpa [BitVec.lt_def] using h32

/-- QUERY_KIND has a value exactly on QRYSET (R75). -/
theorem kindOf_isSome_iff (p : Params) (t : Byte) : (p.kindOf t).isSome = true ↔ isQueryType t = true := by
  by_cases h : isQueryType t = true
  · have hq := (isQueryType_iff t).1 h
    have hlt : t.toNat - 0x10 < 10 := by omega
    simp [Params.kindOf, h, hlt]
  · simp [Params.kindOf, h]

/-! ## Host operations -/

theorem hostOp_of_ne {s : State} {k : Out} (h : s.block.phase ≠ .fault) : hostOp s k = k := by
  simp [hostOp, h]

theorem hostOp_of_fault {s : State} {k : Out} (h : s.block.phase = .fault) : hostOp s k = .fault .hostStuck := by
  simp [hostOp, h]

/-- A host operation that answers a next state ran outside FAULT. -/
theorem hostOp_next {s t : State} {k : Out} (h : hostOp s k = .next t) : s.block.phase ≠ .fault ∧ k = .next t := by
  unfold hostOp at h
  split at h
  · cases h
  · exact ⟨by assumption, h⟩

/-- Everything ENCODE can do when it answers a next state (R132). -/
theorem encodeRequest_next {t a b : Byte} {s s' : State} (h : encodeRequest t a b s = .next s') :
    ((s.block.phase = .tx ∨ s.block.phase = .rx) ∧ s' = raiseFault .overlap (encodeWord t a b) s) ∨
    ((s.block.phase = .idle ∨ s.block.phase = .done) ∧
      ((isCommandType t = true ∧ s' = acceptRequest .cmd t a b s) ∨
       (isQueryType t = true ∧ a = 0 ∧ b = 0 ∧ s' = acceptRequest .qry t a b s) ∨
       (isQueryType t = true ∧ ¬ (a = 0 ∧ b = 0) ∧ s' = raiseFault .operandViolation (encodeWord t a b) s) ∨
       (∃ code, classify t = .undefinedType code ∧ code ≠ .none ∧ s' = raiseFault code (encodeWord t a b) s))) := by
  obtain ⟨hf, h⟩ := hostOp_next h
  split at h
  · rename_i hp
    exact .inl ⟨hp, by cases h; rfl⟩
  · rename_i hp
    refine .inr ⟨?_, ?_⟩
    · cases hph : s.block.phase <;> simp_all
    · rcases classify_cases t with ⟨hc, h1⟩ | ⟨hc, h1⟩ | ⟨hc, h1⟩ | ⟨hc, h1⟩ | ⟨hc, h1⟩ <;> rw [hc] at h
      · exact .inl ⟨(isCommandType_iff t).2 h1, by cases h; rfl⟩
      · exact .inr (.inr (.inr ⟨_, hc, by simp, by cases h; rfl⟩))
      · have hq := (isQueryType_iff t).2 h1
        dsimp only at h
        split at h
        · rename_i hz
          exact .inr (.inl ⟨hq, hz.1, hz.2, by cases h; rfl⟩)
        · rename_i hz
          exact .inr (.inr (.inl ⟨hq, hz, by cases h; rfl⟩))
      · exact .inr (.inr (.inr ⟨_, hc, by simp, by cases h; rfl⟩))
      · exact .inr (.inr (.inr ⟨_, hc, by simp, by cases h; rfl⟩))

/-- Outside FAULT ENCODE always answers a next state. -/
theorem encodeRequest_exists {t a b : Byte} {s : State} (h : s.block.phase ≠ .fault) :
    ∃ s', encodeRequest t a b s = .next s' := by
  rw [encodeRequest, hostOp_of_ne h]
  repeat' split
  all_goals exact ⟨_, rfl⟩

theorem illegalOperation_next {w : HostWord} {s s' : State} (h : illegalOperation w s = .next s') :
    s.block.phase ≠ .fault ∧ s' = raiseFault .illegalOperation w s := by
  obtain ⟨hf, h⟩ := hostOp_next h
  exact ⟨hf, by cases h; rfl⟩

theorem abortTransaction_inFlight {s : State} (h : s.block.phase = .tx ∨ s.block.phase = .rx) :
    abortTransaction s = { s with block := { s.block with resKind := .aborted, resVal := 0, phase := .done } } := by
  simp only [abortTransaction, if_pos h]; rfl

theorem abortTransaction_ready {s : State} (h : ¬ (s.block.phase = .tx ∨ s.block.phase = .rx)) :
    abortTransaction s = s := by
  simp only [abortTransaction, if_neg h]

/-! ## Emission -/

theorem txOffer_of_tx {b : Block} (h : b.phase = .tx) (hi : b.txIdx.toNat < 6) :
    txOffer b = some b.txBuf[b.txIdx.toNat] := by
  simp [txOffer, h, hi]

theorem txOffer_of_ne {b : Block} (h : b.phase ≠ .tx) : txOffer b = none := by
  simp [txOffer, h]

/-- Everything TXPOP can do when it answers a next state (R136). -/
theorem txPop_next {s s' : State} (h : txPop s = .next s') :
    s.block.phase = .tx ∧ ∃ hi : s.block.txIdx.toNat < 6,
      s' = { s with block := advanceFrame s.block, wire := s.wire ++ [s.block.txBuf[s.block.txIdx.toNat]] } := by
  unfold txPop at h
  split at h
  · rename_i hp
    refine ⟨hp, ?_⟩
    by_cases hi : s.block.txIdx.toNat < 6
    · rw [txOffer_of_tx hp hi] at h
      exact ⟨hi, by cases h; rfl⟩
    · simp [txOffer, hp, hi] at h
  · cases h

theorem txPop_of_tx {s : State} (hp : s.block.phase = .tx) (hi : s.block.txIdx.toNat < 6) :
    txPop s = .next
      { s with block := advanceFrame s.block, wire := s.wire ++ [s.block.txBuf[s.block.txIdx.toNat]] } := by
  rw [txPop, if_pos hp, txOffer_of_tx hp hi]

/-- TXPOP before the sixth. -/
theorem advanceFrame_before {b : Block} (h : b.txIdx.toNat < 5) : advanceFrame b = { b with txIdx := b.txIdx + 1 } := by
  have : b.txIdx + 1 ≠ Config.frameLen := by
    intro he
    have := congrArg BitVec.toNat he
    simp [Config.frameLen, BitVec.toNat_add] at this
    omega
  rw [advanceFrame, if_neg this]

/-- The sixth TXPOP. -/
theorem advanceFrame_last {b : Block} (h : b.txIdx.toNat = 5) :
    advanceFrame b = { b with txIdx := 6, rxCnt := 0, phase := .rx } := by
  have : b.txIdx = 5#3 := BitVec.eq_of_toNat_eq (by simpa using h)
  simp [advanceFrame, this, Config.frameLen]

/-! ## Capture -/

theorem rxByte_of_ne {k : Byte} {s : State} (h : s.block.phase ≠ .rx) : rxByte k s = .next s := by
  simp [rxByte, h]

theorem rxByte_of_rx {k : Byte} {s : State} (h : s.block.phase = .rx) (hi : s.block.rxCnt.toNat < 7) :
    rxByte k s = afterCapture { s.block with
      rxBuf := s.block.rxBuf.set s.block.rxCnt.toNat k hi, rxCnt := s.block.rxCnt + 1 } s := by
  simp [rxByte, h, hi]

/-- Everything a capture can do when it answers a next state (R151). -/
theorem afterCapture_next {b : Block} {s s' : State} (h : afterCapture b s = .next s') :
    (b.rxCnt ≠ b.expLen ∧ s' = { s with block := b }) ∨
    (b.rxCnt = b.expLen ∧ ∃ r,
      decodeResponse s.cfg b.reqClass b.reqType (b.rxBuf.toList.take b.expLen.toNat) = some r ∧
      s' = { s with block := finishCapture r b }) := by
  unfold afterCapture at h
  split at h
  · rename_i hc
    split at h
    · exact .inr ⟨hc, _, by assumption, by cases h; rfl⟩
    · cases h
  · rename_i hc
    exact .inl ⟨hc, by cases h; rfl⟩

/-- Everything RXBYTE can do when it answers a next state (R150, R151). -/
theorem rxByte_next {k : Byte} {s s' : State} (h : rxByte k s = .next s') :
    (s.block.phase ≠ .rx ∧ s' = s) ∨
    (s.block.phase = .rx ∧ ∃ hi : s.block.rxCnt.toNat < 7,
      afterCapture { s.block with
        rxBuf := s.block.rxBuf.set s.block.rxCnt.toNat k hi, rxCnt := s.block.rxCnt + 1 } s = .next s') := by
  unfold rxByte at h
  split at h
  · rename_i hp
    split at h
    · exact .inr ⟨hp, _, h⟩
    · cases h
  · rename_i hp
    exact .inl ⟨hp, by cases h; rfl⟩

@[simp] theorem rxSeq_nil (s : State) : rxSeq [] s = .next s := rfl

theorem rxSeq_cons_next {k : Byte} {ks : List Byte} {s s' : State} (h : rxByte k s = .next s') :
    rxSeq (k :: ks) s = rxSeq ks s' := by
  simp [rxSeq, h]

/-- A sequence of RXBYTEs that answers a next state ran each of them. -/
theorem rxSeq_next_cons {k : Byte} {ks : List Byte} {s s' : State} (h : rxSeq (k :: ks) s = .next s') :
    ∃ m, rxByte k s = .next m ∧ rxSeq ks m = .next s' := by
  rw [rxSeq] at h
  split at h
  · exact ⟨_, by assumption, h⟩
  · cases h
  · cases h

theorem rxSeq_of_ne {ks : List Byte} {s : State} (h : s.block.phase ≠ .rx) : rxSeq ks s = .next s := by
  induction ks with
  | nil => rfl
  | cons k ks ih => rw [rxSeq_cons_next (rxByte_of_ne h), ih]

/-! ## Choosing and running a step -/

theorem takeEnabled_cons_enabled {p : Phase} {x : Input} {xs : List Input} (h : x.enabled p = true) :
    takeEnabled p (x :: xs) = some (x, xs) := by
  simp [takeEnabled, h]

/-- What the chosen step is: enabled, with only steps that are not enabled before it. -/
theorem takeEnabled_eq_some {p : Phase} {xs ys : List Input} {x : Input} (h : takeEnabled p xs = some (x, ys)) :
    ∃ waiting rest, xs = waiting ++ x :: rest ∧ ys = waiting ++ rest ∧
      (∀ y ∈ waiting, y.enabled p = false) ∧ x.enabled p = true := by
  induction xs generalizing ys with
  | nil => simp [takeEnabled] at h
  | cons z zs ih =>
    rw [takeEnabled] at h
    split at h
    · rename_i hz
      simp only [Option.some.injEq, Prod.mk.injEq] at h
      obtain ⟨rfl, rfl⟩ := h
      exact ⟨[], zs, rfl, rfl, by simp, hz⟩
    · rename_i hz
      split at h
      · rename_i y' ys' hr
        simp only [Option.some.injEq, Prod.mk.injEq] at h
        obtain ⟨rfl, rfl⟩ := h
        obtain ⟨wt, rest, rfl, rfl, hw, hx⟩ := ih hr
        refine ⟨z :: wt, rest, rfl, rfl, ?_, hx⟩
        simp only [List.mem_cons, forall_eq_or_imp]
        exact ⟨by simpa using hz, hw⟩
      · cases h

/-- A machine step that answers a next state ran the chosen input where it is no longer pending. -/
theorem step_next {s t : State} (h : step s = .next t) :
    ∃ x rest, takeEnabled s.block.phase s.pending = some (x, rest) ∧ x.enabled s.block.phase = true ∧
      runInput x (consume rest s) = .next t := by
  unfold step stepPending at h
  split at h
  · rename_i x rest hx
    obtain ⟨_, _, _, _, _, he⟩ := takeEnabled_eq_some hx
    exact ⟨x, rest, hx, he, h⟩
  · cases h

theorem step_of_taken {s : State} {x : Input} {rest : List Input}
    (h : takeEnabled s.block.phase s.pending = some (x, rest)) : step s = runInput x (consume rest s) := by
  simp [step, stepPending, h]

theorem step_cons {s : State} {x : Input} {rest : List Input} (hp : s.pending = x :: rest)
    (he : x.enabled s.block.phase = true) : step s = runInput x (consume rest s) :=
  step_of_taken (by rw [hp]; exact takeEnabled_cons_enabled he)

/-! ## Words of the encoder, field by field -/

theorem hopField_encodeWord (t a b : Byte) : hopField (encodeWord t a b) = 1 := by
  apply BitVec.eq_of_getLsbD_eq
  intro i hi
  interval_cases i <;> simp [hopField, encodeWord]

theorem reservedField_encodeWord (t a b : Byte) : reservedField (encodeWord t a b) = 0 := by
  apply BitVec.eq_of_getLsbD_eq
  intro i hi
  interval_cases i <;> simp [reservedField, encodeWord]

theorem typeField_encodeWord (t a b : Byte) : typeField (encodeWord t a b) = t := by
  apply BitVec.eq_of_getLsbD_eq
  intro i hi
  interval_cases i <;> simp [typeField, encodeWord]

theorem p0Field_encodeWord (t a b : Byte) : p0Field (encodeWord t a b) = a := by
  apply BitVec.eq_of_getLsbD_eq
  intro i hi
  interval_cases i <;> simp [p0Field, encodeWord]

theorem p1Field_encodeWord (t a b : Byte) : p1Field (encodeWord t a b) = b := by
  apply BitVec.eq_of_getLsbD_eq
  intro i hi
  interval_cases i <;> simp [p1Field, encodeWord]

theorem hopField_fmtfWord (h : BitVec 15) : hopField (fmtfWord h) = 3 := by
  apply BitVec.eq_of_getLsbD_eq
  intro i hi
  interval_cases i <;> simp [hopField, fmtfWord]

theorem reservedField_fmtfWord (h : BitVec 15) : reservedField (fmtfWord h) = 0 := by
  apply BitVec.eq_of_getLsbD_eq
  intro i hi
  interval_cases i <;> simp [reservedField, fmtfWord]

theorem fmtfZeroField_fmtfWord (h : BitVec 15) : fmtfZeroField (fmtfWord h) = 0 := by
  apply BitVec.eq_of_getLsbD_eq
  intro i hi
  interval_cases i <;> simp [fmtfZeroField, fmtfWord]

theorem hundredthsField_fmtfWord (h : BitVec 15) : hundredthsField (fmtfWord h) = h := by
  apply BitVec.eq_of_getLsbD_eq
  intro i hi
  interval_cases i <;> simp [hundredthsField, fmtfWord]

theorem hopField_fmtdWord (sec : BitVec 24) : hopField (fmtdWord sec) = 4 := by
  apply BitVec.eq_of_getLsbD_eq
  intro i hi
  interval_cases i <;> simp [hopField, fmtdWord]

theorem reservedField_fmtdWord (sec : BitVec 24) : reservedField (fmtdWord sec) = 0 := by
  apply BitVec.eq_of_getLsbD_eq
  intro i hi
  interval_cases i <;> simp [reservedField, fmtdWord]

theorem operandField_fmtdWord (sec : BitVec 24) : operandField (fmtdWord sec) = sec := by
  apply BitVec.eq_of_getLsbD_eq
  intro i hi
  interval_cases i <;> simp [operandField, fmtdWord]

theorem hopField_reservedWord (hop : BitVec 3) (rest : BitVec 29) : hopField (reservedWord hop rest) = hop := by
  apply BitVec.eq_of_getLsbD_eq
  intro i hi
  interval_cases i <;> simp [hopField, reservedWord]

theorem restField_reservedWord (hop : BitVec 3) (rest : BitVec 29) : restField (reservedWord hop rest) = rest := by
  apply BitVec.eq_of_getLsbD_eq
  intro i hi
  interval_cases i <;> simp [restField, reservedWord]

theorem frameType_frameWord (t a b : Byte) : frameType (frameWord t a b) = t := by
  apply BitVec.eq_of_getLsbD_eq
  intro i hi
  interval_cases i <;> simp [frameType, frameWord, Config.txH0, Config.txH1, Config.txT0]

theorem frameP0_frameWord (t a b : Byte) : frameP0 (frameWord t a b) = a := by
  apply BitVec.eq_of_getLsbD_eq
  intro i hi
  interval_cases i <;> simp [frameP0, frameWord, Config.txH0, Config.txH1, Config.txT0]

theorem frameP1_frameWord (t a b : Byte) : frameP1 (frameWord t a b) = b := by
  apply BitVec.eq_of_getLsbD_eq
  intro i hi
  interval_cases i <;> simp [frameP1, frameWord, Config.txH0, Config.txH1, Config.txT0]

theorem frameMarkersOk_frameWord (t a b : Byte) : frameMarkersOk (frameWord t a b) = true := by
  have h0 : (frameWord t a b).extractLsb' 40 8 = Config.txH0 := by
    apply BitVec.eq_of_getLsbD_eq
    intro i hi
    interval_cases i <;> simp [frameWord, Config.txH0, Config.txH1, Config.txT0]
  have h1 : (frameWord t a b).extractLsb' 32 8 = Config.txH1 := by
    apply BitVec.eq_of_getLsbD_eq
    intro i hi
    interval_cases i <;> simp [frameWord, Config.txH0, Config.txH1, Config.txT0]
  have h2 : (frameWord t a b).extractLsb' 0 8 = Config.txT0 := by
    apply BitVec.eq_of_getLsbD_eq
    intro i hi
    interval_cases i <;> simp [frameWord, Config.txH0, Config.txH1, Config.txT0]
  simp [frameMarkersOk, h0, h1, h2]

/-- ENCODE's word decodes to ENCODE (R82). -/
theorem decodeHostWord_encodeWord (t a b : Byte) : decodeHostWord (encodeWord t a b) = .ok (.encode t a b) := by
  simp [decodeHostWord, hopField_encodeWord, reservedField_encodeWord, typeField_encodeWord, p0Field_encodeWord,
    p1Field_encodeWord]

end Sys2Proof.Machine
end

