-- ==== Sys2Proof/Laws/PerInstr.lean ====
section
/-! SUPPORT. The family EncodeFitsRow: every instruction's encoding has the width of its row of spec/opcode_table.json and
agrees with the row's match under the row's mask. One lemma per constructor. -/

namespace Sys2Proof.Laws

/-- The width of a table word. -/
def wordBits : TableWord → Nat
  | .out6 _ => 48
  | .hw32 _ => 32
  | .ack1 _ => 8
  | .qres7 _ => 56

/-- The number of a table word, as the opcode table numbers it. -/
def wordNumber : TableWord → Nat
  | .out6 f => f.toNat
  | .hw32 w => w.toNat
  | .ack1 k => k.toNat
  | .qres7 g => g.toNat

/-- A row of spec/opcode_table.json: its width, match and mask. -/
structure Row where
  bits : Nat
  matchBits : Nat
  mask : Nat

/-- The row of each instruction, copied from spec/opcode_table.json. -/
def rowOf : Instr → Row
  | .toggleLoad _ _ => ⟨48, 0xB1B2010000B6, 0xFFFFFF0000FF⟩
  | .setCurrent _ _ => ⟨48, 0xB1B2020000B6, 0xFFFFFF0000FF⟩
  | .setCutoffVoltage _ _ => ⟨48, 0xB1B2030000B6, 0xFFFFFF0000FF⟩
  | .setTimeout _ _ => ⟨48, 0xB1B2040000B6, 0xFFFFFF0000FF⟩
  | .resetCounters _ _ => ⟨48, 0xB1B2050000B6, 0xFFFFFF0000FF⟩
  | .loadEnabled => ⟨48, 0xB1B2100000B6, 0xFFFFFFFFFFFF⟩
  | .voltageReading => ⟨48, 0xB1B2110000B6, 0xFFFFFFFFFFFF⟩
  | .currentReading => ⟨48, 0xB1B2120000B6, 0xFFFFFFFFFFFF⟩
  | .elapsedTime => ⟨48, 0xB1B2130000B6, 0xFFFFFFFFFFFF⟩
  | .capacityMilliAmpHours => ⟨48, 0xB1B2140000B6, 0xFFFFFFFFFFFF⟩
  | .capacityMilliWattHours => ⟨48, 0xB1B2150000B6, 0xFFFFFFFFFFFF⟩
  | .mosfetTemperature => ⟨48, 0xB1B2160000B6, 0xFFFFFFFFFFFF⟩
  | .currentSetting => ⟨48, 0xB1B2170000B6, 0xFFFFFFFFFFFF⟩
  | .cutoffVoltageSetting => ⟨48, 0xB1B2180000B6, 0xFFFFFFFFFFFF⟩
  | .timerSetting => ⟨48, 0xB1B2190000B6, 0xFFFFFFFFFFFF⟩
  | .nop => ⟨32, 0x00000000, 0xFFFFFFFF⟩
  | .encode _ _ _ => ⟨32, 0x20000000, 0xFF000000⟩
  | .abort => ⟨32, 0x40000000, 0xFFFFFFFF⟩
  | .fmtf _ => ⟨32, 0x60000000, 0xFFFF8000⟩
  | .fmtd _ => ⟨32, 0x80000000, 0xFF000000⟩
  | .reserved101 _ => ⟨32, 0xA0000000, 0xE0000000⟩
  | .reserved110 _ => ⟨32, 0xC0000000, 0xE0000000⟩
  | .reserved111 _ => ⟨32, 0xE0000000, 0xE0000000⟩
  | .ackOk => ⟨8, 0x6F, 0xFF⟩
  | .ackErr _ => ⟨8, 0x00, 0x00⟩
  | .queryResult _ _ _ => ⟨56, 0xCACB000000CECF, 0xFFFF000000FFFF⟩

/-- The encoding, under the table's default type codes, is a word of the row. -/
def EncodeFitsRow.Statement (i : Instr) : Prop :=
  wordBits (encode Params.default i) = (rowOf i).bits ∧
  wordNumber (encode Params.default i) &&& (rowOf i).mask = (rowOf i).matchBits

/-- A number's bits under a mask, from the same fact about bit vectors. -/
theorem toNat_and_eq {n : Nat} (w : BitVec n) (mask matchBits : Nat) (hm : matchBits < 2 ^ n) (hk : mask < 2 ^ n)
    (h : w &&& BitVec.ofNat n mask = BitVec.ofNat n matchBits) : w.toNat &&& mask = matchBits := by
  have := congrArg BitVec.toNat h
  simpa [BitVec.toNat_and, Nat.mod_eq_of_lt hm, Nat.mod_eq_of_lt hk] using this

/-- A command's frame under its row's mask, by type byte. -/
theorem frameWord_masked (t a b : Byte) :
    frameWord t a b &&& BitVec.ofNat 48 0xFFFFFF0000FF = 0xB1B2000000B6#48 ||| (t.setWidth 48 <<< 24) := by
  apply BitVec.eq_of_getLsbD_eq
  intro i hi
  interval_cases i <;> simp [frameWord, Config.txH0, Config.txH1, Config.txT0]

theorem EncodeFitsRow.toggleLoad (p0 p1 : Byte) : EncodeFitsRow.Statement (.toggleLoad p0 p1) :=
  ⟨rfl, toNat_and_eq (frameWord 1 p0 p1) 0xFFFFFF0000FF 0xB1B2010000B6 (by decide) (by decide) (by rw [frameWord_masked]; decide)⟩

theorem EncodeFitsRow.setCurrent (p0 p1 : Byte) : EncodeFitsRow.Statement (.setCurrent p0 p1) :=
  ⟨rfl, toNat_and_eq (frameWord 2 p0 p1) 0xFFFFFF0000FF 0xB1B2020000B6 (by decide) (by decide) (by rw [frameWord_masked]; decide)⟩

theorem EncodeFitsRow.setCutoffVoltage (p0 p1 : Byte) : EncodeFitsRow.Statement (.setCutoffVoltage p0 p1) :=
  ⟨rfl, toNat_and_eq (frameWord 3 p0 p1) 0xFFFFFF0000FF 0xB1B2030000B6 (by decide) (by decide) (by rw [frameWord_masked]; decide)⟩

theorem EncodeFitsRow.setTimeout (p0 p1 : Byte) : EncodeFitsRow.Statement (.setTimeout p0 p1) :=
  ⟨rfl, toNat_and_eq (frameWord 4 p0 p1) 0xFFFFFF0000FF 0xB1B2040000B6 (by decide) (by decide) (by rw [frameWord_masked]; decide)⟩

theorem EncodeFitsRow.resetCounters (p0 p1 : Byte) : EncodeFitsRow.Statement (.resetCounters p0 p1) :=
  ⟨rfl, toNat_and_eq (frameWord 5 p0 p1) 0xFFFFFF0000FF 0xB1B2050000B6 (by decide) (by decide) (by rw [frameWord_masked]; decide)⟩

theorem EncodeFitsRow.loadEnabled : EncodeFitsRow.Statement .loadEnabled := ⟨by decide, by decide⟩

theorem EncodeFitsRow.voltageReading : EncodeFitsRow.Statement .voltageReading := ⟨by decide, by decide⟩

theorem EncodeFitsRow.currentReading : EncodeFitsRow.Statement .currentReading := ⟨by decide, by decide⟩

theorem EncodeFitsRow.elapsedTime : EncodeFitsRow.Statement .elapsedTime := ⟨by decide, by decide⟩

theorem EncodeFitsRow.capacityMilliAmpHours : EncodeFitsRow.Statement .capacityMilliAmpHours := ⟨by decide, by decide⟩

theorem EncodeFitsRow.capacityMilliWattHours : EncodeFitsRow.Statement .capacityMilliWattHours := ⟨by decide, by decide⟩

theorem EncodeFitsRow.mosfetTemperature : EncodeFitsRow.Statement .mosfetTemperature := ⟨by decide, by decide⟩

theorem EncodeFitsRow.currentSetting : EncodeFitsRow.Statement .currentSetting := ⟨by decide, by decide⟩

theorem EncodeFitsRow.cutoffVoltageSetting : EncodeFitsRow.Statement .cutoffVoltageSetting := ⟨by decide, by decide⟩

theorem EncodeFitsRow.timerSetting : EncodeFitsRow.Statement .timerSetting := ⟨by decide, by decide⟩

theorem EncodeFitsRow.nop : EncodeFitsRow.Statement .nop := ⟨by decide, by decide⟩

theorem EncodeFitsRow.encode (t p0 p1 : Byte) : EncodeFitsRow.Statement (.encode t p0 p1) := by
  refine ⟨rfl, toNat_and_eq (encodeWord t p0 p1) 0xFF000000 0x20000000 (by decide) (by decide) ?_⟩
  apply BitVec.eq_of_getLsbD_eq
  intro i hi
  interval_cases i <;> simp [encodeWord]

theorem EncodeFitsRow.abort : EncodeFitsRow.Statement .abort := ⟨by decide, by decide⟩

theorem EncodeFitsRow.fmtf (h : BitVec 15) : EncodeFitsRow.Statement (.fmtf h) := by
  refine ⟨rfl, toNat_and_eq (fmtfWord h) 0xFFFF8000 0x60000000 (by decide) (by decide) ?_⟩
  apply BitVec.eq_of_getLsbD_eq
  intro i hi
  interval_cases i <;> simp [fmtfWord]

theorem EncodeFitsRow.fmtd (sec : BitVec 24) : EncodeFitsRow.Statement (.fmtd sec) := by
  refine ⟨rfl, toNat_and_eq (fmtdWord sec) 0xFF000000 0x80000000 (by decide) (by decide) ?_⟩
  apply BitVec.eq_of_getLsbD_eq
  intro i hi
  interval_cases i <;> simp [fmtdWord]

/-- A reserved word under the mask of the HOP field. -/
theorem reservedWord_masked (hop : BitVec 3) (rest : BitVec 29) :
    reservedWord hop rest &&& BitVec.ofNat 32 0xE0000000 = hop.setWidth 32 <<< 29 := by
  apply BitVec.eq_of_getLsbD_eq
  intro i hi
  interval_cases i <;> simp [reservedWord]

theorem EncodeFitsRow.reserved101 (rest : BitVec 29) : EncodeFitsRow.Statement (.reserved101 rest) :=
  ⟨rfl, toNat_and_eq (reservedWord 0b101 rest) 0xE0000000 0xA0000000 (by decide) (by decide) (by rw [reservedWord_masked]; decide)⟩

theorem EncodeFitsRow.reserved110 (rest : BitVec 29) : EncodeFitsRow.Statement (.reserved110 rest) :=
  ⟨rfl, toNat_and_eq (reservedWord 0b110 rest) 0xE0000000 0xC0000000 (by decide) (by decide) (by rw [reservedWord_masked]; decide)⟩

theorem EncodeFitsRow.reserved111 (rest : BitVec 29) : EncodeFitsRow.Statement (.reserved111 rest) :=
  ⟨rfl, toNat_and_eq (reservedWord 0b111 rest) 0xE0000000 0xE0000000 (by decide) (by decide) (by rw [reservedWord_masked]; decide)⟩

theorem EncodeFitsRow.ackOk : EncodeFitsRow.Statement .ackOk := ⟨by decide, by decide⟩

theorem EncodeFitsRow.ackErr (raw : Byte) : EncodeFitsRow.Statement (.ackErr raw) :=
  ⟨rfl, Nat.and_zero raw.toNat⟩

theorem EncodeFitsRow.queryResult (v0 v1 v2 : Byte) : EncodeFitsRow.Statement (.queryResult v0 v1 v2) := by
  refine ⟨rfl, toNat_and_eq (resultWord v0 v1 v2) 0xFFFF000000FFFF 0xCACB000000CECF (by decide) (by decide) ?_⟩
  apply BitVec.eq_of_getLsbD_eq
  intro i hi
  interval_cases i <;> simp [resultWord]

end Sys2Proof.Laws
end

