-- ==== Sys2Proof/Laws/Steps.lean ====
section
/-! SUPPORT. What one agent's step can do, said once for the host operations and once for the response bytes, and the
small lemmas that reduce each input to the shared operations. -/

namespace Sys2Proof.Machine

/-! ## Inputs as shared operations -/

/-- A request row that a type byte and payload stand for is the ENCODE of them. -/
theorem exec_ofRequest {n : ReqName} {a b : Byte} {i : Instr} (h : Instr.ofRequest n a b = some i) (s : State) :
    exec i s = encodeRequest (s.cfg.code n) a b s := by
  cases n <;> simp only [Instr.ofRequest] at h <;>
    first
      | (cases h; rfl)
      | (split at h
         · rename_i hz; obtain ⟨rfl, rfl⟩ := hz; cases h; rfl
         · cases h)

theorem exec_decodeRequest {t a b : Byte} {i : Instr} {s : State} (h : decodeRequest s.cfg t a b = some i) :
    exec i s = encodeRequest t a b s := by
  unfold decodeRequest at h
  cases hn : s.cfg.nameOf t with
  | none => simp [hn] at h
  | some n =>
    simp only [hn, Option.bind_some] at h
    have ht : s.cfg.code n = t := by
      have := List.find?_some hn
      simpa using this
    rw [exec_ofRequest h, ht]

/-- A request row is one the contract asks no more of than a phase in which the host may request. -/
theorem keepsContract_ofRequest {n : ReqName} {a b : Byte} {i : Instr} (h : Instr.ofRequest n a b = some i)
    (p : Phase) : Safety.keepsContract p i = Safety.mayRequest p := by
  cases n <;> simp only [Instr.ofRequest] at h <;>
    first
      | (cases h; rfl)
      | (split at h
         · cases h; rfl
         · cases h)

/-- A request with the frame's markers is the ENCODE of its type byte and payload, row or not. -/
theorem runRequest_of_markers {f : FrameWord} {s : State} (h : frameMarkersOk f = true) :
    runRequest f s = encodeRequest (frameType f) (frameP0 f) (frameP1 f) s := by
  unfold runRequest decodeFrame
  rw [if_pos h]
  cases hd : decodeRequest s.cfg (frameType f) (frameP0 f) (frameP1 f) with
  | none => rfl
  | some i => exact exec_decodeRequest hd

theorem runRequest_without_markers {f : FrameWord} {s : State} (h : ¬ frameMarkersOk f = true) :
    runRequest f s = .refused .notARequestFrame := by
  simp [runRequest, decodeFrame, h]

/-- The seven bytes of a QUERY_RESULT word are its markers and its value bytes. -/
theorem exec_decodeResult {g : ResultWord} {i : Instr} (h : decodeResult g = .ok i) (s : State) :
    exec i s = rxSeq (resultBytes g) s := by
  unfold decodeResult at h
  split at h
  · rename_i hm
    cases h
    have bit : ∀ j, j < 56 → (0xFFFF000000FFFF#56).getLsbD j = true →
        g.getLsbD j = (0xCACB000000CECF#56).getLsbD j := by
      intro j _ hb
      rw [← hm, BitVec.getLsbD_and, hb, Bool.and_true]
    have e0 : g.extractLsb' 48 8 = 0xCA#8 := by
      apply BitVec.eq_of_getLsbD_eq; intro j hj
      have := bit (48 + j) (by omega); interval_cases j <;> simp_all
    have e1 : g.extractLsb' 40 8 = 0xCB#8 := by
      apply BitVec.eq_of_getLsbD_eq; intro j hj
      have := bit (40 + j) (by omega); interval_cases j <;> simp_all
    have e5 : g.extractLsb' 8 8 = 0xCE#8 := by
      apply BitVec.eq_of_getLsbD_eq; intro j hj
      have := bit (8 + j) (by omega); interval_cases j <;> simp_all
    have e6 : g.extractLsb' 0 8 = 0xCF#8 := by
      apply BitVec.eq_of_getLsbD_eq; intro j hj
      have := bit (0 + j) (by omega); interval_cases j <;> simp_all
    simp only [resultBytes, e0, e1, e5, e6]
    rfl
  · cases h

/-- Seven bytes given at once are seven RXBYTEs, whether or not they are a QUERY_RESULT row. -/
theorem runResult_eq (g : ResultWord) (s : State) : runResult g s = rxSeq (resultBytes g) s := by
  unfold runResult
  cases h : decodeResult g with
  | ok i => exact exec_decodeResult h s
  | error _ => rfl

/-! ## Host operations -/

/-- Everything a host operation can do to the block, when it has a step: nothing, one fault, one accepted request, one
aborted transaction, or one formatted pair. -/
def HostEffect (s t : State) : Prop :=
  t = s ∨
  (∃ code w, code ≠ .none ∧ t = raiseFault code w s) ∨
  (∃ ty a b, Safety.mayRequest s.block.phase = true ∧ isCommandType ty = true ∧ t = acceptRequest .cmd ty a b s) ∨
  (∃ ty, Safety.mayRequest s.block.phase = true ∧ isQueryType ty = true ∧ t = acceptRequest .qry ty 0 0 s) ∨
  ((s.block.phase = .tx ∨ s.block.phase = .rx) ∧
    t = { s with block := { s.block with resKind := .aborted, resVal := 0, phase := .done } }) ∨
  (∃ p0 p1, t = writeFormat p0 p1 s)

theorem encodeRequest_effect {ty a b : Byte} {s t : State} (h : encodeRequest ty a b s = .next t) : HostEffect s t := by
  rcases encodeRequest_next h with ⟨_, rfl⟩ | ⟨hp, h⟩
  · exact .inr (.inl ⟨_, _, by simp, rfl⟩)
  · have hm : Safety.mayRequest s.block.phase = true := by rcases hp with hp | hp <;> simp [Safety.mayRequest, hp]
    rcases h with ⟨hc, rfl⟩ | ⟨hq, rfl, rfl, rfl⟩ | ⟨_, _, rfl⟩ | ⟨code, _, hn, rfl⟩
    · exact .inr (.inr (.inl ⟨_, _, _, hm, hc, rfl⟩))
    · exact .inr (.inr (.inr (.inl ⟨_, hm, hq, rfl⟩)))
    · exact .inr (.inl ⟨_, _, by simp, rfl⟩)
    · exact .inr (.inl ⟨_, _, hn, rfl⟩)

theorem illegalOperation_effect {w : HostWord} {s t : State} (h : illegalOperation w s = .next t) : HostEffect s t :=
  .inr (.inl ⟨_, _, by simp, (illegalOperation_next h).2⟩)

theorem execNop_effect {s t : State} (h : execNop s = .next t) : HostEffect s t := by
  obtain ⟨_, h⟩ := hostOp_next h
  cases h; exact .inl rfl

theorem execAbort_effect {s t : State} (h : execAbort s = .next t) : HostEffect s t := by
  obtain ⟨_, h⟩ := hostOp_next h
  by_cases hp : s.block.phase = .tx ∨ s.block.phase = .rx
  · rw [abortTransaction_inFlight hp] at h
    cases h; exact .inr (.inr (.inr (.inr (.inl ⟨hp, rfl⟩))))
  · rw [abortTransaction_ready hp] at h
    cases h; exact .inl rfl

theorem execFmtf_effect {v : BitVec 15} {s t : State} (h : execFmtf v s = .next t) : HostEffect s t := by
  obtain ⟨_, h⟩ := hostOp_next h
  split at h
  · cases h; exact .inr (.inl ⟨_, _, by simp, rfl⟩)
  · cases h; exact .inr (.inr (.inr (.inr (.inr ⟨_, _, rfl⟩))))

theorem execFmtd_effect {v : BitVec 24} {s t : State} (h : execFmtd v s = .next t) : HostEffect s t := by
  obtain ⟨_, h⟩ := hostOp_next h
  cases h; exact .inr (.inr (.inr (.inr (.inr ⟨_, _, rfl⟩))))

/-- A host word's row is never a response row. -/
theorem exec_hostWord_effect {w : HostWord} {i : Instr} {s t : State} (hd : decodeHostWord w = .ok i)
    (h : exec i s = .next t) : HostEffect s t := by
  unfold decodeHostWord at hd
  repeat' (split at hd)
  all_goals first | (cases hd; done) | cases hd
  all_goals first
    | exact illegalOperation_effect h
    | exact execNop_effect h
    | exact execAbort_effect h
    | exact encodeRequest_effect h
    | exact execFmtf_effect h
    | exact execFmtd_effect h

/-- Everything a host input can do when it answers a next state. -/
theorem runHostWord_effect {w : HostWord} {s t : State} (h : runHostWord w s = .next t) : HostEffect s t := by
  unfold runHostWord at h
  split at h
  · rename_i hd; exact exec_hostWord_effect hd h
  · exact illegalOperation_effect h

theorem runRequest_effect {f : FrameWord} {s t : State} (h : runRequest f s = .next t) : HostEffect s t := by
  by_cases hm : frameMarkersOk f = true
  · rw [runRequest_of_markers hm] at h; exact encodeRequest_effect h
  · rw [runRequest_without_markers hm] at h; cases h

/-- A host input never changes what stands outside the block. -/
theorem HostEffect.frame {s t : State} (h : HostEffect s t) : t = { s with block := t.block } := by
  rcases h with rfl | ⟨_, _, _, rfl⟩ | ⟨_, _, _, _, _, rfl⟩ | ⟨_, _, _, rfl⟩ | ⟨_, rfl⟩ | ⟨_, _, rfl⟩ <;> rfl

/-! ## Response bytes -/

/-- A response byte never changes what stands outside the block. -/
theorem rxByte_frame {k : Byte} {s t : State} (h : rxByte k s = .next t) : t = { s with block := t.block } := by
  rcases rxByte_next h with ⟨_, rfl⟩ | ⟨_, _, h⟩
  · rfl
  · rcases afterCapture_next h with ⟨_, rfl⟩ | ⟨_, _, _, rfl⟩ <;> rfl

theorem rxSeq_frame {ks : List Byte} {s t : State} (h : rxSeq ks s = .next t) : t = { s with block := t.block } := by
  induction ks generalizing s with
  | nil => cases h; rfl
  | cons k ks ih =>
    obtain ⟨m, hm, ht⟩ := rxSeq_next_cons h
    have h1 := rxByte_frame hm
    have h2 := ih ht
    rw [h2, h1]

/-- A property of the block that every response byte keeps is kept by any number of them. -/
theorem rxSeq_keeps {P : State → Prop} (hk : ∀ k s t, P s → rxByte k s = .next t → P t) {ks : List Byte} {s t : State}
    (hs : P s) (h : rxSeq ks s = .next t) : P t := by
  induction ks generalizing s with
  | nil => cases h; exact hs
  | cons k ks ih =>
    obtain ⟨m, hm, ht⟩ := rxSeq_next_cons h
    exact ih (hk k s m hs hm) ht

/-- Everything one agent's step can do when it answers a next state: the host's effect, response bytes, one byte
emitted, or RESET. -/
theorem runInput_next {x : Input} {s t : State} (h : runInput x s = .next t) :
    (((∃ w, x = .hostWord w) ∨ ∃ f, x = .hostRequest f) ∧ HostEffect s t) ∨
    ((∃ k, x = .rxByte k) ∧ ∃ ks, rxSeq ks s = .next t) ∨
    ((∃ g, x = .rxResult g) ∧ ∃ ks, rxSeq ks s = .next t) ∨
    (x = .txPop ∧ txPop s = .next t) ∨
    (x = .reset ∧ t = resetBlock s) := by
  cases x with
  | hostWord w => exact .inl ⟨.inl ⟨w, rfl⟩, runHostWord_effect h⟩
  | hostRequest f => exact .inl ⟨.inr ⟨f, rfl⟩, runRequest_effect h⟩
  | txPop => exact .inr (.inr (.inr (.inl ⟨rfl, h⟩)))
  | rxByte k =>
    refine .inr (.inl ⟨⟨k, rfl⟩, [k], ?_⟩)
    rw [rxSeq_cons_next (h : rxByte k s = .next t)]; rfl
  | rxResult g =>
    refine .inr (.inr (.inl ⟨⟨g, rfl⟩, resultBytes g, ?_⟩))
    rw [← runResult_eq]; exact h
  | reset => exact .inr (.inr (.inr (.inr ⟨rfl, by cases h; rfl⟩)))

/-! ## Runs -/

theorem run_of_step {n : Nat} {s m : State} (h : step s = .next m) :
    Host.Core.run core (n + 1) s = Host.Core.run core n m := by
  have h' : core.step s = .next m := h
  simp only [Host.Core.run, h']

/-- A run of `n + 1` steps that answers a next state took a first step. -/
theorem run_next {n : Nat} {s t : State} (h : Host.Core.run core (n + 1) s = .next t) :
    ∃ m, step s = .next m ∧ Host.Core.run core n m = .next t := by
  simp only [Host.Core.run] at h
  split at h
  · exact ⟨_, by assumption, h⟩
  · cases h
  · cases h

end Sys2Proof.Machine
end

