-- ==== Sys2Proof/Tests/Slice0.lean ====
section
/-! SUPPORT. The model's own tests: the well-formedness smoke, one written-out word for each row of the opcode table,
single steps whose expected results are those of spec/95_test_vectors.md, and for each statement with hypotheses a
witness that meets them together. -/

namespace Sys2Proof.Tests

open Sys2Proof.Machine Sys2Proof.Safety Sys2Proof.Claims

/-! ## Well-formedness and decoding -/

/-- 30_encoding.md R77: ACK_ERR is every byte except 0x6F. -/
theorem test_wf_refuses_ackErr_6F : (Instr.ackErr 0x6F).wellFormed = false := by decide
theorem test_wf_admits_ackErr_6E : (Instr.ackErr 0x6E).wellFormed = true := by decide

/-! Each word is written out from its row's "encoding" in spec/opcode_table.json. -/

theorem test_decode_toggleLoad :
    decodeTableWord 48 0b101100011011001000000001101010101100110010110110 = some (.toggleLoad 0xAA 0xCC) := by decide
theorem test_decode_setCurrent :
    decodeTableWord 48 0b101100011011001000000010000000010001011110110110 = some (.setCurrent 0x01 0x17) := by decide
theorem test_decode_setCutoffVoltage :
    decodeTableWord 48 0b101100011011001000000011111111110000000010110110 = some (.setCutoffVoltage 0xFF 0x00) := by decide
theorem test_decode_setTimeout :
    decodeTableWord 48 0b101100011011001000000100000100010111000010110110 = some (.setTimeout 0x11 0x70) := by decide
theorem test_decode_resetCounters :
    decodeTableWord 48 0b101100011011001000000101000000001111111110110110 = some (.resetCounters 0x00 0xFF) := by decide
theorem test_decode_loadEnabled :
    decodeTableWord 48 0b101100011011001000010000000000000000000010110110 = some .loadEnabled := by decide
theorem test_decode_voltageReading :
    decodeTableWord 48 0b101100011011001000010001000000000000000010110110 = some .voltageReading := by decide
theorem test_decode_currentReading :
    decodeTableWord 48 0b101100011011001000010010000000000000000010110110 = some .currentReading := by decide
theorem test_decode_elapsedTime :
    decodeTableWord 48 0b101100011011001000010011000000000000000010110110 = some .elapsedTime := by decide
theorem test_decode_capacityMilliAmpHours :
    decodeTableWord 48 0b101100011011001000010100000000000000000010110110 = some .capacityMilliAmpHours := by decide
theorem test_decode_capacityMilliWattHours :
    decodeTableWord 48 0b101100011011001000010101000000000000000010110110 = some .capacityMilliWattHours := by decide
theorem test_decode_mosfetTemperature :
    decodeTableWord 48 0b101100011011001000010110000000000000000010110110 = some .mosfetTemperature := by decide
theorem test_decode_currentSetting :
    decodeTableWord 48 0b101100011011001000010111000000000000000010110110 = some .currentSetting := by decide
theorem test_decode_cutoffVoltageSetting :
    decodeTableWord 48 0b101100011011001000011000000000000000000010110110 = some .cutoffVoltageSetting := by decide
theorem test_decode_timerSetting :
    decodeTableWord 48 0b101100011011001000011001000000000000000010110110 = some .timerSetting := by decide
theorem test_decode_nop : decodeTableWord 32 0b00000000000000000000000000000000 = some .nop := by decide
theorem test_decode_encode :
    decodeTableWord 32 0b00100000000000100000000100010111 = some (.encode 0x02 0x01 0x17) := by decide
theorem test_decode_abort : decodeTableWord 32 0b01000000000000000000000000000000 = some .abort := by decide
theorem test_decode_fmtf : decodeTableWord 32 0b01100000000000000110001111111111 = some (.fmtf 25599) := by decide
theorem test_decode_fmtd : decodeTableWord 32 0b10000000000000010001000101110000 = some (.fmtd 70000) := by decide
theorem test_decode_reserved101 :
    decodeTableWord 32 0b10100000000000000000000000000001 = some (.reserved101 1) := by decide
theorem test_decode_reserved110 :
    decodeTableWord 32 0b11010000000000000000000000000000 = some (.reserved110 0x10000000) := by decide
theorem test_decode_reserved111 :
    decodeTableWord 32 0b11111111111111111111111111111111 = some (.reserved111 0x1FFFFFFF) := by decide
theorem test_decode_ackOk : decodeTableWord 8 0b01101111 = some .ackOk := by decide
theorem test_decode_ackErr : decodeTableWord 8 0b01101110 = some (.ackErr 0x6E) := by decide
theorem test_decode_queryResult :
    decodeTableWord 56 0b11001010110010110000000000000011111010001100111011001111 = some (.queryResult 0x00 0x03 0xE8) := by
  decide

/-- 30_encoding.md R76: a query's payload is zero, so this frame is no row. -/
theorem test_query_payload_is_no_row : decodeTableWord 48 0xB1B2110100B6 = none := by decide
/-- R70: the markers are part of the row. -/
theorem test_wrong_marker_is_no_row : decodeTableWord 48 0xB1B2020117B7 = none := by decide
/-- R86: a must-be-zero bit of a defined HOP. -/
theorem test_fmtf_bit15_is_no_row : decodeTableWord 32 0x60008000 = none := by decide
/-- R89: the listing form QUERY is the host word of vector P2. -/
theorem test_query_listing : queryInput Params.default .voltageReading = .hostWord 0x20110000 := by decide

/-- The listing of program P4 and the host words it shows. -/
theorem test_listing_P4 :
    listingInputs Params.default [.fmtd 70000, .encode (.name .setTimeout) 0x11 0x70, .send6, .rxByte 0x01] =
      [.hostWord 0x80011170, .hostWord 0x20041170, .txPop, .txPop, .txPop, .txPop, .txPop, .txPop, .rxByte 0x01] := by
  decide

/-! ## Small states -/

/-- After `ENCODE 02, 01, 17` from reset, with `n` bytes emitted. -/
def txCmd (n : BitVec 3) : State :=
  let s := startedCommand 0x02 0x01 0x17 State.reset
  { s with block := { s.block with txIdx := n } }

/-- A command's capture, with no byte captured. -/
def rxCmd : State :=
  let s := startedCommand 0x02 0x01 0x17 State.reset
  { s with block := { s.block with txIdx := 6, phase := .rx } }

/-- A query's capture: type `t`, `n` bytes captured. -/
def rxQry (t : Byte) (n : BitVec 3) : State :=
  let s := startedQuery t State.reset
  { s with block := { s.block with
      txIdx := 6, rxBuf := #v[0xCA, 0xCB, 0x00, 0x03, 0xE8, 0xCE, 0x00], rxCnt := n, phase := .rx } }

/-- A command acknowledged with 0x6F. -/
def doneCmd : State := captured #v[0x6F, 0, 0, 0, 0, 0, 0] 1 .ackOk 0 rxCmd

/-- FAULT with OVERLAP, in the middle of a frame. -/
def inFault : State := faulted .overlap 0x20010000 (txCmd 1)

/-- The state with one more pending step in front. -/
def withNext (x : Input) (s : State) : State := { s with pending := x :: s.pending }

/-- STATUS after an outcome, when it is a next state. -/
def statusAfter : Out → Option HostWord
  | .next s => some (readStatus s)
  | _ => none

/-- The block's field `f` after an outcome, when it is a next state. -/
def after {α : Type} (f : Block → α) : Out → Option α
  | .next s => some (f s.block)
  | _ => none

/-! ## Single steps, from 95_test_vectors.md -/

/-- Vectors 2.3, each one host word from reset. -/
theorem test_word_nop : statusAfter (runInput (.hostWord 0x00000000) State.reset) = some 0x00000000 := by decide
theorem test_word_nop_operand : statusAfter (runInput (.hostWord 0x00000001) State.reset) = some 0x00000144 := by decide
theorem test_word_reserved_bit : statusAfter (runInput (.hostWord 0x01000000) State.reset) = some 0x00000144 := by decide
theorem test_word_abort : statusAfter (runInput (.hostWord 0x40000000) State.reset) = some 0x00000000 := by decide
theorem test_word_hop101 : statusAfter (runInput (.hostWord 0xA0000000) State.reset) = some 0x00000144 := by decide
theorem test_word_hop111 : statusAfter (runInput (.hostWord 0xE0000000) State.reset) = some 0x00000144 := by decide
theorem test_word_bad_request : statusAfter (runInput (.hostWord 0x20200100) State.reset) = some 0x000000C4 := by decide
theorem test_word_bad_command : statusAfter (runInput (.hostWord 0x20060000) State.reset) = some 0x00000044 := by decide
theorem test_word_bad_query : statusAfter (runInput (.hostWord 0x201A0000) State.reset) = some 0x00000084 := by decide
theorem test_word_query_payload : statusAfter (runInput (.hostWord 0x20110100) State.reset) = some 0x00000184 := by decide
theorem test_word_query : statusAfter (runInput (.hostWord 0x20110000) State.reset) = some 0x00078001 := by decide
theorem test_word_command : statusAfter (runInput (.hostWord 0x20020117) State.reset) = some 0x00008001 := by decide

/-- Vector 2.3's priority lines: a reserved bit comes before the phase check. -/
theorem test_reserved_before_overlap :
    after (·.fCode) (runInput (.hostWord 0x21200100) (txCmd 1)) = some .illegalOperation := by decide
theorem test_overlap_before_type :
    after (·.fCode) (runInput (.hostWord 0x20200100) (txCmd 1)) = some .overlap := by decide

/-- S1, vectors 2.2: the frame of SetCurrent(1.23), and markers in a payload are not escaped. -/
theorem test_setCurrent_frame :
    after (·.txBuf) (exec (.setCurrent 0x01 0x17) State.reset) = some #v[0xB1, 0xB2, 0x02, 0x01, 0x17, 0xB6] := by decide
theorem test_markers_not_escaped :
    after (·.txBuf) (exec (.encode 0x02 0xB6 0xB1) State.reset) = some #v[0xB1, 0xB2, 0x02, 0xB6, 0xB1, 0xB6] := by decide
theorem test_timerSetting_frame :
    after (·.txBuf) (exec .timerSetting State.reset) = some #v[0xB1, 0xB2, 0x19, 0x00, 0x00, 0xB6] := by decide

/-- Vectors 2.4. -/
theorem test_ack_ok : after (·.resKind) (exec .ackOk rxCmd) = some .ackOk := by decide
theorem test_ack_err_zero : after (fun b => (b.resKind, b.resVal)) (exec (.ackErr 0x00) rxCmd) = some (.ackErr, 0) := by
  decide
theorem test_ack_err_ff : after (·.resVal) (exec (.ackErr 0xFF) rxCmd) = some 0x0000FF := by decide

/-- Vectors V-M0, V-M4 and V-M6 of 2.5: a good query result, a wrong last marker, and the markers reversed. -/
theorem test_query_result_1000 :
    after (fun b => (b.resKind, b.resVal)) (exec (.queryResult 0x00 0x03 0xE8) (rxQry 0x11 0)) = some (.u24, 1000) := by
  decide
theorem test_query_wrong_marker :
    after (·.resKind) (runInput (.rxResult 0xCACB0003E8CECE) (rxQry 0x11 0)) = some .invalidResponse := by decide
theorem test_query_reversed :
    after (·.resKind) (runInput (.rxResult 0xCFCEE80300CBCA) (rxQry 0x11 0)) = some .invalidResponse := by decide

/-- Vectors 2.6: `FF FF 00` under each kind. -/
theorem test_parse_bool : parseBool 0xFF 0xFF 0x00 = false := by decide
theorem test_parse_u24 : parseU24 0xFF 0xFF 0x00 = 16776960 := by decide
theorem test_parse_dur : (parseValue .dur 0xFF 0xFF 0x00).val = 0xFFFF00 := by decide

/-- Vectors 2.7: the largest legal operand, and the first that is not. -/
theorem test_fmtf_25599 :
    after (fun b => (b.fmtP0, b.fmtP1)) (exec (.fmtf 25599) State.reset) = some (0xFF, 0x63) := by decide
theorem test_fmtf_25600 : statusAfter (exec (.fmtf 25600) State.reset) = some 0x00000184 := by decide

/-- S6, vectors 2.8. -/
theorem test_fmtd_70000 :
    after (fun b => (b.fmtP0, b.fmtP1)) (exec (.fmtd 70000) State.reset) = some (0x11, 0x70) := by decide
theorem test_fmtd_largest :
    after (fun b => (b.fmtP0, b.fmtP1)) (exec (.fmtd 16777215) State.reset) = some (0xFF, 0xFF) := by decide

/-- Vectors 2.9: ABORT in mid frame keeps TXIDX; a byte in TX is dropped; RESET leaves FAULT. -/
theorem test_abort_in_tx :
    after (fun b => (b.phase, b.resKind, b.txIdx)) (exec .abort (txCmd 3)) = some (.done, .aborted, 3) := by decide
theorem test_byte_in_tx_dropped : after (·.rxCnt) (runInput (.rxByte 0x6F) (txCmd 0)) = some 0 := by decide
theorem test_reset_leaves_fault : statusAfter (runInput .reset inFault) = some 0x00000000 := by decide

/-- A word placed where the machine takes its next step runs as the first step after reset. -/
theorem test_withFetchWord_runs :
    after (·.fmtP0) (step (State.reset.withFetchWord 32 0x6000007B)) = some 0x01 := by decide
/-- Nothing is pending at reset, so the block waits. -/
theorem test_reset_waits : step State.reset = .fault .noEnabledStep := rfl

/-! ## Witnesses: states and operands that meet the hypotheses of the statements -/

/-- A TYPE_CODE that swaps two commands: R74 allows it. -/
def swapped : Params := { Params.default with
  typeCode := #v[0x02, 0x01, 0x03, 0x04, 0x05, 0x10, 0x11, 0x12, 0x13, 0x14, 0x15, 0x16, 0x17, 0x18, 0x19] }

theorem witness_DecodeEncodeRoundTrip :
    (Params.default.Valid ∧ (Instr.setCurrent 0x01 0x17).wellFormed = true) ∧
    (swapped.Valid ∧ (Instr.ackErr 0x70).wellFormed = true) := by decide

theorem witness_DecodedWordEncodesBack :
    decode swapped (.out6 0xB1B2010117B6) = .ok (.setCurrent 0x01 0x17) := rfl

theorem witness_StepRunsDecodedInstruction :
    takeEnabled (withNext (inputOf (.hw32 0x20020117)) State.reset).block.phase
      (withNext (inputOf (.hw32 0x20020117)) State.reset).pending = some (inputOf (.hw32 0x20020117), []) ∧
    decode State.reset.cfg (.hw32 0x20020117) = .ok (.encode 0x02 0x01 0x17) ∧
    (Instr.encode 0x02 0x01 0x17).wellFormed = true := ⟨rfl, rfl, rfl⟩

theorem witness_StepTakesFirstEnabledInput :
    ((withNext (.hostWord 0) (withNext .reset inFault)).pending = [Input.hostWord 0] ++ .reset :: [] ∧
      (∀ y ∈ [Input.hostWord 0], y.enabled inFault.block.phase = false) ∧
      Input.reset.enabled inFault.block.phase = true) ∧
    (∀ y ∈ (withNext (.hostWord 0) inFault).pending,
      y.enabled (withNext (.hostWord 0) inFault).block.phase = false) := by decide

theorem witness_RequestFormIsItsHostWord :
    ((0xB0B2020117B6#48).extractLsb' 40 8 ≠ 0xB1#8 ∧ (0xB1B3020117B6#48).extractLsb' 32 8 ≠ 0xB2#8) ∧
    (0xB1B2020117B7#48).extractLsb' 0 8 ≠ 0xB6#8 := by decide

theorem witness_ResultWordIsSevenBytes :
    Host.Core.run core 7
      { State.reset with pending := rxInputs (resultBytes 0xCACB0003E8CECF) ++ [] } =
      .next { State.reset with epoch := 7 } := rfl

/-- CommandRequestsStart and QueryRequestsStart, in IDLE and in DONE. -/
theorem witness_Ready : (Ready State.reset ∧ State.reset.cfg = Params.default) ∧
    (Ready doneCmd ∧ doneCmd.cfg = Params.default) :=
  ⟨⟨.inl rfl, rfl⟩, ⟨.inr rfl, rfl⟩⟩

/-- EncodeStartsTransaction, CommandRequestsStart and QueryRequestsStart, at both ends of each type range. -/
theorem witness_EncodeStartsTransaction :
    Ready doneCmd ∧ (0x01 ≤ (0x01#8).toNat ∧ (0x01#8).toNat ≤ 0x05) ∧ (0x01 ≤ (0x05#8).toNat ∧ (0x05#8).toNat ≤ 0x05) ∧
    (0x10 ≤ (0x10#8).toNat ∧ (0x10#8).toNat ≤ 0x19) ∧ (0x10 ≤ (0x19#8).toNat ∧ (0x19#8).toNat ≤ 0x19) :=
  ⟨.inr rfl, by decide⟩

/-- EncodeChecksInOrder: a word for each of its branches. -/
theorem witness_EncodeChecksInOrder :
    (0x21000000#32).extractLsb' 29 3 = 1 ∧ (0x20060000#32).extractLsb' 29 3 = 1 ∧
    requestFault 0x20060000 = some .invalidCommandType ∧ requestFault 0x20190001 = some .operandViolation ∧
    requestFault 0x2005FFFF = none ∧ requestFault 0x20100000 = none := by decide

/-- ResetRestoresTheBlock: a step of another agent in FAULT. -/
theorem witness_ResetRestoresTheBlock :
    inFault.block.phase = .fault ∧ Input.rxByte 0x6F ≠ .reset ∧ runInput (.rxByte 0x6F) inFault = .next inFault :=
  ⟨rfl, by decide, rfl⟩

theorem witness_RequestEmitsItsOwnFrame :
    State.reset.cfg.Valid ∧ Ready State.reset ∧
    decode State.reset.cfg (.out6 0xB1B2020117B6) = .ok (.setCurrent 0x01 0x17) := ⟨by decide, .inl rfl, rfl⟩

theorem witness_RequestInFlightOverlaps :
    (InFlight (txCmd 0) ∧ (txCmd 0).cfg = Params.default) ∧
    (InFlight (rxQry 0x11 6) ∧ (rxQry 0x11 6).cfg = Params.default) := ⟨⟨.inl rfl, rfl⟩, ⟨.inr rfl, rfl⟩⟩

theorem witness_NopChangesNothing :
    State.reset.block.phase ≠ .fault ∧ (0x00000000#32).extractLsb' 29 3 = 0 ∧ (0x1FFFFFFF#32).extractLsb' 29 3 = 0 := by
  decide

theorem witness_AbortEndsTransaction :
    InFlight (txCmd 5) ∧ InFlight rxCmd ∧ Ready State.reset ∧ Ready doneCmd ∧
    (0x40000000#32).extractLsb' 29 3 = 2 ∧ (0x5FFFFFFF#32).extractLsb' 29 3 = 2 :=
  ⟨.inl rfl, .inr rfl, .inl rfl, .inr rfl, by decide⟩

theorem witness_FmtfSplitsHundredths :
    State.reset.block.phase ≠ .fault ∧ (25599#15).toNat ≤ 25599 ∧ 25599 < (25600#15).toNat ∧
    25599 < (32767#15).toNat ∧ (0x60008000#32).extractLsb' 29 3 = 3 ∧ (0x60007FFF#32).extractLsb' 29 3 = 3 := by decide

/-- 95_test_vectors.md 2.7: 1.239 gives H 123; and 255.99. -/
theorem witness_FmtfTruncatesRationals :
    State.reset.block.phase ≠ .fault ∧ (0 < 1000 ∧ 1239 / 1000 ≤ 255 ∧ (123#15).toNat = 100 * 1239 / 1000) ∧
    (0 < 100 ∧ 25599 / 100 ≤ 255 ∧ (25599#15).toNat = 100 * 25599 / 100) := by decide

theorem witness_FmtdWrapsSeconds :
    State.reset.block.phase ≠ .fault ∧ (0x80FFFFFF#32).extractLsb' 29 3 = 4 ∧ (0x81000000#32).extractLsb' 29 3 = 4 := by
  decide

theorem witness_ReservedRowsFault : (rxQry 0x13 2).block.phase ≠ .fault := by decide

theorem witness_MalformedWordsAreIllegal :
    Malformed 0xA0000000 ∧ Malformed 0x01000000 ∧ Malformed 0x00000001 ∧ Malformed 0x40000001 ∧ Malformed 0x60008000 ∧
    ¬ Malformed 0x60007FFF ∧ ¬ Malformed 0x80FFFFFF ∧ (txCmd 1).block.phase ≠ .fault := by
  unfold Malformed; decide

/-- HostWordFaultPriority: each case of `HostFault`, and a step of another agent. -/
theorem witness_HostWordFaultPriority :
    HostFault State.reset 0xA0000000 (some .illegalOperation) ∧
    HostFault (txCmd 1) 0x20200100 (some .overlap) ∧
    HostFault State.reset 0x20200100 (some .invalidRequestType) ∧
    HostFault State.reset 0x20190001 (some .operandViolation) ∧
    HostFault State.reset 0x20050000 none ∧
    HostFault State.reset 0x60006400 (some .operandViolation) ∧
    HostFault State.reset 0x600063FF none ∧
    HostFault State.reset 0x00000000 none ∧
    ((txCmd 5).block.phase ≠ .fault ∧ ∃ t, runInput .txPop (txCmd 5) = .next t) := by
  unfold HostFault Malformed InFlight Ready
  refine ⟨.inl ?_, .inr (.inl ?_), .inr (.inr (.inl ?_)), .inr (.inr (.inl ?_)), .inr (.inr (.inl ?_)),
    .inr (.inr (.inr (.inl ?_))), .inr (.inr (.inr (.inl ?_))), .inr (.inr (.inr (.inr ?_))), by decide, _, rfl⟩ <;> decide

theorem witness_FaultEntryIsPrecise :
    (txCmd 1).block.phase ≠ .fault ∧ runInput (.hostWord 0x20010000) (txCmd 1) = .next inFault ∧
    inFault.block.phase = .fault := ⟨by decide, rfl, rfl⟩

theorem witness_HostIsStuckInFault :
    inFault.block.phase = .fault ∧ (∀ k, Instr.nop ≠ .ackErr k) ∧ Instr.nop ≠ .ackOk ∧
    (∀ v0 v1 v2, Instr.nop ≠ .queryResult v0 v1 v2) ∧ State.reset.block.phase ≠ .fault ∧ Malformed 0xFFFFFFFF := by
  refine ⟨rfl, by simp, by decide, by simp, by decide, ?_⟩
  unfold Malformed; decide

theorem witness_FaultIsStickyUntilReset :
    inFault.block.phase = .fault ∧ Input.reset ∉ (withNext (.rxByte 0x6F) inFault).pending ∧
    Host.Core.run core 1 (withNext (.rxByte 0x6F) inFault) = .next { inFault with epoch := 1 } := ⟨rfl, by decide, rfl⟩

/-! Concrete states that satisfy the invariants. -/

theorem inv_txCmd0 : BlockInv (txCmd 0).block := by
  constructor <;> first | decide | exact fun _ => rfl
theorem inv_txCmd5 : BlockInv (txCmd 5).block := by
  constructor <;> first | decide | exact fun _ => rfl
theorem inv_rxCmd : BlockInv rxCmd.block := by
  constructor <;> first | decide | exact fun _ => rfl
theorem inv_rxQry0 : BlockInv (rxQry 0x11 0).block := by
  constructor <;> first | decide | exact fun _ => rfl
theorem inv_rxQry5 : BlockInv (rxQry 0x10 5).block := by
  constructor <;> first | decide | exact fun _ => rfl
theorem inv_rxQry6 : BlockInv (rxQry 0x13 6).block := by
  constructor <;> first | decide | exact fun _ => rfl
theorem inv_doneCmd : BlockInv doneCmd.block := by
  constructor <;> first | decide | exact fun _ => rfl
theorem inv_inFault : BlockInv inFault.block := by
  constructor <;> first | decide | exact fun _ => rfl

theorem witness_TxOfferByPhase :
    (BlockInv (txCmd 5).block ∧ (txCmd 5).block.phase = .tx) ∧ (BlockInv doneCmd.block ∧ doneCmd.block.phase ≠ .tx) :=
  ⟨⟨inv_txCmd5, rfl⟩, ⟨inv_doneCmd, by decide⟩⟩

theorem witness_TxPopEmitsAndAdvances :
    ((txCmd 0).block.txIdx.toNat < 6 ∧ (txCmd 0).block.phase = .tx) ∧
    ((txCmd 5).block.txIdx.toNat < 6 ∧ (txCmd 5).block.phase = .tx) ∧ rxCmd.block.phase ≠ .tx := by decide

theorem witness_DroppedOutsideCapture : inFault.block.phase ≠ .rx ∧ (txCmd 5).block.phase ≠ .rx := by decide

theorem witness_CaptureStoresAndCompletes :
    (BlockInv (rxQry 0x10 5).block ∧ (rxQry 0x10 5).block.phase = .rx ∧
      (rxQry 0x10 5).block.rxCnt.toNat + 1 < (rxQry 0x10 5).block.expLen.toNat) ∧
    (BlockInv (rxQry 0x13 6).block ∧ (rxQry 0x13 6).block.phase = .rx ∧
      (rxQry 0x13 6).block.rxCnt.toNat + 1 = (rxQry 0x13 6).block.expLen.toNat) ∧
    (BlockInv rxCmd.block ∧ rxCmd.block.phase = .rx ∧ rxCmd.block.rxCnt.toNat + 1 = rxCmd.block.expLen.toNat) :=
  ⟨⟨inv_rxQry5, by decide⟩, ⟨inv_rxQry6, by decide⟩, ⟨inv_rxCmd, by decide⟩⟩

theorem witness_CommandAcknowledged :
    rxCmd.block.phase = .rx ∧ rxCmd.block.reqClass = .cmd ∧ rxCmd.block.rxCnt = 0 ∧ rxCmd.block.expLen = 1 ∧
    (0x6E#8 ≠ 0x6F ∧ 0x00#8 ≠ 0x6F) := by decide

/-- QueryResponseDecoded and QueryResultCompletes, for each kind. -/
theorem witness_QueryResponseDecoded :
    ((rxQry 0x11 0).block.phase = .rx ∧ (rxQry 0x11 0).block.reqClass = .qry ∧ (rxQry 0x11 0).block.rxCnt = 0 ∧
      (rxQry 0x11 0).block.expLen = 7) ∧
    (rxQry 0x10 0).cfg.kindOf (rxQry 0x10 0).block.reqType = some .bool ∧
    (rxQry 0x11 0).cfg.kindOf (rxQry 0x11 0).block.reqType = some .u24 ∧
    (rxQry 0x13 0).cfg.kindOf (rxQry 0x13 0).block.reqType = some .dur := by decide

theorem witness_CaptureLengthEnforced :
    (BlockInv (rxQry 0x11 0).block ∧ (rxQry 0x11 0).block.phase = .rx ∧ (rxQry 0x11 0).block.rxCnt = 0) ∧
    (List.replicate 6 0xCA#8).length < (rxQry 0x11 0).block.expLen.toNat ∧
    (rxQry 0x11 0).block.expLen.toNat ≤ (List.replicate 7 0xCA#8).length := ⟨⟨inv_rxQry0, rfl, rfl⟩, by decide⟩

/-- Vector P2: a stale byte among the first five TXPOPs. -/
theorem witness_StaleInputIsDropped :
    BlockInv (txCmd 0).block ∧ (txCmd 0).block.phase = .tx ∧ (txCmd 0).block.txIdx = 0 ∧
    (∀ x ∈ [Input.txPop, .txPop, .rxByte 0x33, .txPop, .txPop, .txPop], x = .txPop ∨ ∃ k, x = .rxByte k) ∧
    [Input.txPop, .txPop, .rxByte 0x33, .txPop, .txPop, .txPop].countP (· == Input.txPop) = 5 :=
  ⟨inv_txCmd0, rfl, rfl, by simp, by decide⟩

theorem witness_CommandTransaction :
    Ready { State.reset with pending := .hostWord (encodeHW 0x05 0x01 0x17) :: (send6 ++ rxInputs [0x6F] ++ []) } ∧
    0x01 ≤ (0x05#8).toNat ∧ (0x05#8).toNat ≤ 0x05 := ⟨.inl rfl, by decide⟩

theorem witness_QueryTransaction :
    Ready { doneCmd with pending := .hostWord (encodeHW 0x19 0x00 0x00) ::
      (send6 ++ rxInputs (#v[0xCA, 0xCB, 1, 2, 3, 0xCE, 0xCF] : Vector Byte 7).toList ++ []) } ∧
    0x10 ≤ (0x19#8).toNat ∧ (0x19#8).toNat ≤ 0x19 := ⟨.inr rfl, by decide⟩

theorem witness_DefinedReadsGiveTheRegister :
    (6 : Fin 7).val < (captured #v[0xCA, 0xCB, 0, 3, 0xE8, 0xCE, 0xCF] 7 .u24 1000 (rxQry 0x11 6)).block.rxCnt.toNat ∧
    (writeFormat 1 23 State.reset).block.fmtValid = true := by decide

theorem witness_ExecTouchesOnlyTheBlock : exec .abort (txCmd 3) = .next
    { txCmd 3 with block := { (txCmd 3).block with resKind := .aborted, phase := .done } } := rfl

theorem witness_OnlyTxPopEmits : runInput .txPop (txCmd 0) = .next
    { txCmd 0 with block := { (txCmd 0).block with txIdx := 1 }, wire := [0xB1] } := rfl

/-- StepKeepsInvariants and StepKeepsWirePrefix. -/
theorem witness_StepKeepsInvariants :
    BlockInv (withNext .txPop (txCmd 0)).block ∧ WireInv (withNext .txPop (txCmd 0)) ∧
    ∃ t, step (withNext .txPop (txCmd 0)) = .next t := ⟨inv_txCmd0, fun _ => ⟨[], rfl⟩, _, rfl⟩

theorem witness_EnabledStepsComplete :
    BlockInv (withNext (.hostRequest 0xB1B2190000B6) doneCmd).block ∧
    takeEnabled doneCmd.block.phase (withNext (.hostRequest 0xB1B2190000B6) doneCmd).pending =
      some (.hostRequest 0xB1B2190000B6, []) ∧
    (∀ f, Input.hostRequest 0xB1B2190000B6 = .hostRequest f → frameMarkersOk f = true) :=
  ⟨inv_doneCmd, rfl, fun f h => by cases h; decide⟩

theorem witness_FormatterDoesNotInterfere :
    SameButFormat (withNext .txPop (txCmd 0)) (withNext .txPop (writeFormat 1 23 (txCmd 0))) ∧
    ∃ t, step (withNext .txPop (txCmd 0)) = .next t := ⟨⟨1, 23, true, rfl⟩, _, rfl⟩

/-- Two states that differ in RXBUF above RXCNT and in FMT_P0 while FMT_VALID = 0. -/
theorem witness_UnspecifiedRegistersNeverShow :
    BlockInv rxCmd.block ∧
    BlockInv { rxCmd.block with rxBuf := Vector.replicate 7 0x55, fmtP0 := 9 } ∧
    SameView (withNext (.rxByte 0x6F) rxCmd)
      (withNext (.rxByte 0x6F) { rxCmd with block := { rxCmd.block with rxBuf := Vector.replicate 7 0x55, fmtP0 := 9 } }) ∧
    ∃ t, step (withNext (.rxByte 0x6F) rxCmd) = .next t := by
  refine ⟨inv_rxCmd, ?_, ⟨?_, rfl, rfl, rfl, rfl⟩, _, rfl⟩
  · constructor <;> first | decide | exact fun _ => rfl
  · constructor <;> decide

theorem witness_ContractHostNeverFaults :
    BlockInv doneCmd.block ∧ doneCmd.cfg.Valid ∧ doneCmd.block.phase ≠ .fault ∧
    runKeepsContract 1 (withNext (.hostWord 0x20190000) doneCmd) ∧
    ∃ t, Host.Core.run core 1 (withNext (.hostWord 0x20190000) doneCmd) = .next t :=
  ⟨inv_doneCmd, by decide, by decide, ⟨by decide, fun _ _ => trivial⟩, _, rfl⟩

/-- R216 with the default RETRY_COUNT (vector S4: three attempts in all). -/
theorem witness_RetryCountsAttempts :
    0 < Config.retryCount ∧ Config.retryCount ≤ 5 ∧ 2 < Config.retryCount ∧ ResKind.u24 ≠ .invalidResponse ∧
    attempts Config.retryCount 0 (List.replicate 5 .invalidResponse) = 3 := by decide

end Sys2Proof.Tests
end

/-! The STATUS view is an OR of fields placed side by side (10_state.md R34). A slice of a placed field is the field where
it lies on it and zero where it lies beside it; so each field of STATUS reads back as the register it was placed from. -/

namespace Sys2Proof.Machine

/-! ### A value placed in a host word -/

theorem extractLsb'_place_same {n k : Nat} (x : BitVec n) (h : k + n ≤ 32) :
    (x.setWidth 32 <<< k : HostWord).extractLsb' k n = x := by
  ext i hi
  have bit_in_word : k + i < 32 := by omega
  simp [bit_in_word, hi]

theorem extractLsb'_place_apart {n k : Nat} (x : BitVec n) {start len : Nat}
    (h : start + len ≤ k ∨ k + n ≤ start) :
    (x.setWidth 32 <<< k : HostWord).extractLsb' start len = 0#len := by
  ext i hi
  obtain below | above := h
  · have bit_below : start + i < k := by omega
    simp [bit_below]
  · have bit_above : n ≤ start + i - k := by omega
    simp [bit_above]

/-! ### STATUS, field by field -/

/-- A slice of STATUS is the OR of the same slices of its placed fields, PHASE being placed at 0. -/
theorem extractLsb'_status (b : Block) (start len : Nat) : b.status.extractLsb' start len =
    (b.phase.code.setWidth 32 <<< 0 : HostWord).extractLsb' start len |||
    (b.resKind.code.setWidth 32 <<< 3 : HostWord).extractLsb' start len |||
    (b.fCode.code.setWidth 32 <<< 6 : HostWord).extractLsb' start len |||
    (b.txIdx.setWidth 32 <<< 9 : HostWord).extractLsb' start len |||
    (b.rxCnt.setWidth 32 <<< 12 : HostWord).extractLsb' start len |||
    (b.expLen.setWidth 32 <<< 15 : HostWord).extractLsb' start len |||
    (b.classBit.setWidth 32 <<< 18 : HostWord).extractLsb' start len |||
    ((BitVec.ofBool b.fmtValid).setWidth 32 <<< 19 : HostWord).extractLsb' start len := by
  simp only [Block.status, BitVec.shiftLeft_zero, BitVec.extractLsb'_or]

theorem status_phaseField (b : Block) : b.status.extractLsb' 0 3 = b.phase.code := by
  simp (disch := omega) only [extractLsb'_status, extractLsb'_place_same, extractLsb'_place_apart, BitVec.or_zero]

theorem status_resKindField (b : Block) : b.status.extractLsb' 3 3 = b.resKind.code := by
  simp (disch := omega) only [extractLsb'_status, extractLsb'_place_same, extractLsb'_place_apart,
    BitVec.zero_or, BitVec.or_zero]

theorem status_fCodeField (b : Block) : b.status.extractLsb' 6 3 = b.fCode.code := by
  simp (disch := omega) only [extractLsb'_status, extractLsb'_place_same, extractLsb'_place_apart,
    BitVec.zero_or, BitVec.or_zero]

theorem status_txIdxField (b : Block) : b.status.extractLsb' 9 3 = b.txIdx := by
  simp (disch := omega) only [extractLsb'_status, extractLsb'_place_same, extractLsb'_place_apart,
    BitVec.zero_or, BitVec.or_zero]

theorem status_rxCntField (b : Block) : b.status.extractLsb' 12 3 = b.rxCnt := by
  simp (disch := omega) only [extractLsb'_status, extractLsb'_place_same, extractLsb'_place_apart,
    BitVec.zero_or, BitVec.or_zero]

theorem status_expLenField (b : Block) : b.status.extractLsb' 15 3 = b.expLen := by
  simp (disch := omega) only [extractLsb'_status, extractLsb'_place_same, extractLsb'_place_apart,
    BitVec.zero_or, BitVec.or_zero]

theorem status_reqClassField (b : Block) : b.status.extractLsb' 18 1 = b.classBit := by
  simp (disch := omega) only [extractLsb'_status, extractLsb'_place_same, extractLsb'_place_apart,
    BitVec.zero_or, BitVec.or_zero]

theorem status_fmtValidField (b : Block) : b.status.extractLsb' 19 1 = BitVec.ofBool b.fmtValid := by
  simp (disch := omega) only [extractLsb'_status, extractLsb'_place_same, extractLsb'_place_apart,
    BitVec.zero_or, BitVec.or_zero]

/-- Bits 31..20 hold no field. -/
theorem status_upperField (b : Block) : b.status.extractLsb' 20 12 = 0#12 := by
  simp (disch := omega) only [extractLsb'_status, extractLsb'_place_apart, BitVec.or_zero]

/-! ### The codes as numbers -/

theorem Phase.code_toNat (p : Phase) : p.code.toNat =
    (match p with | .idle => 0 | .tx => 1 | .rx => 2 | .done => 3 | .fault => 4) := by
  cases p <;> rfl

theorem ResKind.code_toNat (k : ResKind) : k.code.toNat =
    (match k with
      | .none => 0 | .ackOk => 1 | .ackErr => 2 | .bool => 3 | .u24 => 4 | .dur => 5 | .invalidResponse => 6
      | .aborted => 7) := by
  cases k <;> rfl

theorem FCode.code_toNat (c : FCode) : c.code.toNat =
    (match c with
      | .none => 0 | .invalidCommandType => 1 | .invalidQueryType => 2 | .invalidRequestType => 3 | .overlap => 4
      | .illegalOperation => 5 | .operandViolation => 6) := by
  cases c <;> rfl

theorem ReqClass.code_toNat (c : ReqClass) : c.code.toNat = (match c with | .cmd => 0 | .qry => 1) := by
  cases c <;> rfl

/-- REQ_CLASS shows its code only once an ENCODE has been accepted (R24, R34). -/
theorem classBit_toNat (b : Block) : b.classBit.toNat =
    (if b.expLen = 0 then 0 else match b.reqClass with | .cmd => 0 | .qry => 1) := by
  by_cases noRequest : b.expLen = 0
  · rw [Block.classBit, if_pos noRequest, if_pos noRequest]
    rfl
  · rw [Block.classBit, if_neg noRequest, if_neg noRequest, ReqClass.code_toNat]

/-- Settles O39: each slice of STATUS is the one field placed there, and each enumeration has its code. -/
theorem statusWordFields : Obligations.StatusWordFields := by
  intro s
  unfold readStatus
  refine ⟨?phase, ?resKind, ?fCode, status_txIdxField _, status_rxCntField _, status_expLenField _, ?reqClass,
    status_fmtValidField _, status_upperField _⟩
  case phase => rw [status_phaseField]; exact Phase.code_toNat _
  case resKind => rw [status_resKindField]; exact ResKind.code_toNat _
  case fCode => rw [status_fCodeField]; exact FCode.code_toNat _
  case reqClass => rw [status_reqClassField]; exact classBit_toNat _

end Sys2Proof.Machine

/-! The frame number is six bytes placed side by side (30_encoding.md R71). As for STATUS, a slice of a placed value is
the value where it lies on it and zero where it lies beside it; here at any word width. -/

namespace Sys2Proof.Machine

/-! ### A value placed in a word of any width -/

theorem extractLsb'_setWidth_shiftLeft_same {n w k : Nat} (x : BitVec n) (fits : k + n ≤ w) :
    (x.setWidth w <<< k).extractLsb' k n = x := by
  ext i hi
  have bit_in_word : k + i < w := by omega
  simp [bit_in_word, hi]

theorem extractLsb'_setWidth_shiftLeft_apart {n w k : Nat} (x : BitVec n) {start len : Nat}
    (apart : start + len ≤ k ∨ k + n ≤ start) :
    (x.setWidth w <<< k).extractLsb' start len = 0#len := by
  ext i hi
  obtain below | above := apart
  · have bit_below : start + i < k := by omega
    simp [bit_below]
  · have bit_above : n ≤ start + i - k := by omega
    simp [bit_above]

/-! ### The frame number, byte by byte -/

/-- A slice of the frame number is the OR of the same slices of its placed bytes, byte 5 being placed at 0. -/
theorem extractLsb'_packFrame (v : Vector Byte 6) (start len : Nat) : (packFrame v).extractLsb' start len =
    (v[0].setWidth 48 <<< 40).extractLsb' start len ||| (v[1].setWidth 48 <<< 32).extractLsb' start len |||
    (v[2].setWidth 48 <<< 24).extractLsb' start len ||| (v[3].setWidth 48 <<< 16).extractLsb' start len |||
    (v[4].setWidth 48 <<< 8).extractLsb' start len ||| (v[5].setWidth 48 <<< 0).extractLsb' start len := by
  simp only [packFrame, BitVec.shiftLeft_zero, BitVec.extractLsb'_or]

/-- Frame byte `i` is the slice at `40 - 8 * i`: it was placed there, and each other byte `j` lies beside it. -/
theorem extractLsb'_packFrame_byte (v : Vector Byte 6) (i : Nat) (hi : i < 6) :
    (packFrame v).extractLsb' (40 - 8 * i) 8 = v[i] := by
  interval_cases i <;>
    simp (disch := omega) only [extractLsb'_packFrame, extractLsb'_setWidth_shiftLeft_same,
      extractLsb'_setWidth_shiftLeft_apart, Nat.reduceMul, Nat.reduceSub, BitVec.zero_or, BitVec.or_zero]

/-! ### OUT6's frame -/

/-- The frame ENCODE latches is numbered as the encoder numbers it (R71, R133). -/
theorem packFrame_frame (t a b : Byte) : packFrame (frame t a b) = frameWord t a b := rfl

/-- The three markers of OUT6, each in its place, are one constant (R70). -/
theorem frameMarkers_placed :
    (Config.txH0.setWidth 48 <<< 40) ||| (Config.txH1.setWidth 48 <<< 32) ||| Config.txT0.setWidth 48 =
      0xB1B2000000B6#48 := by decide

/-- The placed values are named before they are reordered, so that `ac_rfl` does not compute them. -/
theorem frameWord_eq_markers_or_fields (t a b : Byte) : frameWord t a b =
    0xB1B2000000B6#48 ||| (t.setWidth 48 <<< 24) ||| (a.setWidth 48 <<< 16) ||| (b.setWidth 48 <<< 8) := by
  rw [frameWord, ← frameMarkers_placed]
  generalize t.setWidth 48 <<< 24 = placedType, a.setWidth 48 <<< 16 = placedP0, b.setWidth 48 <<< 8 = placedP1,
    Config.txH0.setWidth 48 <<< 40 = header0, Config.txH1.setWidth 48 <<< 32 = header1,
    Config.txT0.setWidth 48 = trailer
  ac_rfl

/-- Settles O4: each slice of the frame number is the one byte placed there, and OUT6's number is its markers around the
type and the payload. -/
theorem frameNumberFields : Obligations.FrameNumberFields := by
  refine ⟨fun v => ?bytes, fun t a b => ?out6⟩
  case bytes =>
    have byte := extractLsb'_packFrame_byte v
    exact ⟨byte 0 (by decide), byte 1 (by decide), byte 2 (by decide), byte 3 (by decide), byte 4 (by decide),
      byte 5 (by decide)⟩
  case out6 => rw [packFrame_frame, frameWord_eq_markers_or_fields]

end Sys2Proof.Machine

/-! A host word is its HOP, its five reserved bits and its operand side by side (30_encoding.md R80 to R86). So it is put
together again from its fields, and it runs either as R140's ILLEGAL_OPERATION or as the one row of its HOP. -/

namespace Sys2Proof.Machine

open Sys2Proof.Claims

/-! ### Phases -/

theorem not_inFlight_of_ready {s : State} (ready : Ready s) : ¬ InFlight s := by
  obtain idle | done := ready
  · simp [InFlight, idle]
  · simp [InFlight, done]

theorem ne_fault_of_ready {s : State} (ready : Ready s) : s.block.phase ≠ .fault := by
  obtain idle | done := ready
  · simp [idle]
  · simp [done]

theorem ne_fault_of_inFlight {s : State} (inFlight : InFlight s) : s.block.phase ≠ .fault := by
  obtain tx | rx := inFlight
  · simp [tx]
  · simp [rx]

/-! ### A host word from its fields -/

theorem hopField_append_restField (w : HostWord) : hopField w ++ restField w = w := by
  rw [hopField, restField, BitVec.extractLsb'_append_extractLsb'_eq_extractLsb' (Nat.zero_add 29).symm]
  exact BitVec.extractLsb'_eq_self

theorem reservedField_append_operandField (w : HostWord) : reservedField w ++ operandField w = restField w :=
  BitVec.extractLsb'_append_extractLsb'_eq_extractLsb' rfl

theorem typeField_append_payloadFields (w : HostWord) : typeField w ++ (p0Field w ++ p1Field w) = operandField w := by
  rw [p0Field, p1Field, BitVec.extractLsb'_append_extractLsb'_eq_extractLsb' (Nat.zero_add 8).symm]
  exact BitVec.extractLsb'_append_extractLsb'_eq_extractLsb' rfl

theorem hostWord_eq_of_fields {v w : HostWord} (hop : hopField v = hopField w) (rest : restField v = restField w) :
    v = w := by
  rw [← hopField_append_restField v, hop, rest, hopField_append_restField]

theorem restField_eq_zero_iff (w : HostWord) : restField w = 0#29 ↔ reservedField w = 0#5 ∧ operandField w = 0#24 := by
  constructor
  · intro rest
    have operand : operandField w = (restField w).extractLsb' 0 24 := by
      rw [← reservedField_append_operandField, BitVec.extractLsb'_append_eq_right]
    have reserved : reservedField w = (restField w).extractLsb' 24 5 := by
      rw [← reservedField_append_operandField, BitVec.extractLsb'_append_eq_left]
    rw [reserved, operand, rest]
    decide
  · rintro ⟨reserved, operand⟩
    rw [← reservedField_append_operandField, reserved, operand]
    rfl

theorem eq_zero_iff_restField {w : HostWord} (hop : hopField w = 0) : w = 0#32 ↔ restField w = 0#29 :=
  ⟨fun zero => by rw [zero]; rfl, fun rest => hostWord_eq_of_fields hop rest⟩

theorem restField_encodeWord (t a b : Byte) : restField (encodeWord t a b) = 0#5 ++ (t ++ (a ++ b)) := by
  rw [← reservedField_append_operandField, ← typeField_append_payloadFields, reservedField_encodeWord,
    typeField_encodeWord, p0Field_encodeWord, p1Field_encodeWord]
  rfl

/-- A word of HOP 001 with its reserved bits clear is ENCODE's word of its own fields (R82). -/
theorem encodeWord_fields {w : HostWord} (hop : hopField w = 1) (reserved : reservedField w = 0#5) :
    encodeWord (typeField w) (p0Field w) (p1Field w) = w := by
  apply hostWord_eq_of_fields
  · rw [hopField_encodeWord, hop]
  · rw [restField_encodeWord, typeField_append_payloadFields, ← reserved, reservedField_append_operandField]

theorem reservedWord_fields (w : HostWord) : reservedWord (hopField w) (restField w) = w :=
  hostWord_eq_of_fields (hopField_reservedWord _ _) (restField_reservedWord _ _)

/-! ### Reserved and malformed words -/

/-- `Malformed` in terms of the decoder's fields. -/
theorem malformed_iff (w : HostWord) : Malformed w ↔
    5 ≤ (hopField w).toNat ∨ reservedField w ≠ 0#5 ∨
    ((hopField w = 0 ∨ hopField w = 2) ∧ operandField w ≠ 0#24) ∨ (hopField w = 3 ∧ fmtfZeroField w ≠ 0#9) := Iff.rfl

/-- Of the words with HOP 000 only zero is not malformed (R85, R130). -/
theorem malformed_nop_iff {w : HostWord} (hop : hopField w = 0) : Malformed w ↔ w ≠ 0#32 := by
  simp [malformed_iff, hop, eq_zero_iff_restField hop, restField_eq_zero_iff, imp_iff_not_or]

theorem malformed_encode_iff {w : HostWord} (hop : hopField w = 1) : Malformed w ↔ reservedField w ≠ 0#5 := by
  simp [malformed_iff, hop]

theorem malformed_abort_iff {w : HostWord} (hop : hopField w = 2) : Malformed w ↔ restField w ≠ 0#29 := by
  simp [malformed_iff, hop, restField_eq_zero_iff, imp_iff_not_or]

theorem definedHop_cases : ∀ hop : BitVec 3, hop.toNat < 5 → hop = 0 ∨ hop = 1 ∨ hop = 2 ∨ hop = 3 ∨ hop = 4 := by
  decide

theorem reservedHop_cases : ∀ hop : BitVec 3, 5 ≤ hop.toNat → hop = 5 ∨ hop = 6 ∨ hop = 7 := by
  decide

theorem decodeHostWord_reservedBits {w : HostWord} (defined : (hopField w).toNat < 5) (reserved : reservedField w ≠ 0#5) :
    decodeHostWord w = .error .mustBeZero := by
  rw [decodeHostWord, if_neg, if_neg, if_neg, if_pos reserved] <;>
  · intro hop
    simp [hop] at defined

/-- A malformed word of a defined HOP has no row (R86). -/
theorem decodeHostWord_malformed {w : HostWord} (malformed : Malformed w) (defined : (hopField w).toNat < 5) :
    decodeHostWord w = .error .mustBeZero := by
  by_cases reserved : reservedField w = 0#5
  · obtain reservedHop | reservedBits | ⟨hop | hop, operand⟩ | ⟨hop, upper⟩ := (malformed_iff w).1 malformed
    · omega
    · exact absurd reserved reservedBits
    · simp [decodeHostWord, hop, operand]
    · simp [decodeHostWord, hop, operand]
    · simp [decodeHostWord, hop, upper]
  · exact decodeHostWord_reservedBits defined reserved

/-- A reserved HOP has a row, and it raises ILLEGAL_OPERATION with the whole word (R140). -/
theorem exec_reservedHop {w : HostWord} (hop_reserved : 5 ≤ (hopField w).toNat) (s : State) :
    ∃ i, decodeHostWord w = .ok i ∧ exec i s = illegalOperation w s := by
  have word := reservedWord_fields w
  obtain hop | hop | hop := reservedHop_cases _ hop_reserved <;> rw [hop] at word
  · exact ⟨.reserved101 (restField w), by simp [decodeHostWord, hop], congrArg (illegalOperation · s) word⟩
  · exact ⟨.reserved110 (restField w), by simp [decodeHostWord, hop], congrArg (illegalOperation · s) word⟩
  · exact ⟨.reserved111 (restField w), by simp [decodeHostWord, hop], congrArg (illegalOperation · s) word⟩

/-! ### The row of each HOP -/

theorem decodeHostWord_nop {w : HostWord} (hop : hopField w = 0) (formed : ¬ Malformed w) :
    decodeHostWord w = .ok .nop := by
  rw [malformed_nop_iff hop, not_not] at formed
  rw [formed]
  rfl

theorem decodeHostWord_encode {w : HostWord} (hop : hopField w = 1) (formed : ¬ Malformed w) :
    decodeHostWord w = .ok (.encode (typeField w) (p0Field w) (p1Field w)) := by
  rw [malformed_encode_iff hop, not_not] at formed
  conv => lhs; rw [← encodeWord_fields hop formed]
  exact decodeHostWord_encodeWord _ _ _

theorem decodeHostWord_abort {w : HostWord} (hop : hopField w = 2) (formed : ¬ Malformed w) :
    decodeHostWord w = .ok .abort := by
  rw [malformed_abort_iff hop, not_not, restField_eq_zero_iff] at formed
  obtain ⟨reserved, operand⟩ := formed
  simp [decodeHostWord, hop, reserved, operand]

theorem decodeHostWord_fmtf {w : HostWord} (hop : hopField w = 3) (formed : ¬ Malformed w) :
    decodeHostWord w = .ok (.fmtf (hundredthsField w)) := by
  obtain ⟨reserved, upper⟩ : reservedField w = 0#5 ∧ fmtfZeroField w = 0#9 := by
    simpa [malformed_iff, hop] using formed
  simp [decodeHostWord, hop, reserved, upper]

theorem decodeHostWord_fmtd {w : HostWord} (hop : hopField w = 4) (formed : ¬ Malformed w) :
    decodeHostWord w = .ok (.fmtd (operandField w)) := by
  have reserved : reservedField w = 0#5 := by simpa [malformed_iff, hop] using formed
  simp [decodeHostWord, hop, reserved]

/-- Every word that is not malformed is NOP, ENCODE, ABORT, FMTF or FMTD of its own operand. -/
theorem decodeHostWord_formed {w : HostWord} (formed : ¬ Malformed w) :
    decodeHostWord w = .ok .nop ∨ decodeHostWord w = .ok (.encode (typeField w) (p0Field w) (p1Field w)) ∨
    decodeHostWord w = .ok .abort ∨ decodeHostWord w = .ok (.fmtf (hundredthsField w)) ∨
    decodeHostWord w = .ok (.fmtd (operandField w)) := by
  have defined : (hopField w).toNat < 5 := by
    rw [malformed_iff, not_or, not_le] at formed
    exact formed.1
  obtain hop | hop | hop | hop | hop := definedHop_cases _ defined
  · exact .inl (decodeHostWord_nop hop formed)
  · exact .inr (.inl (decodeHostWord_encode hop formed))
  · exact .inr (.inr (.inl (decodeHostWord_abort hop formed)))
  · exact .inr (.inr (.inr (.inl (decodeHostWord_fmtf hop formed))))
  · exact .inr (.inr (.inr (.inr (decodeHostWord_fmtd hop formed))))

/-! ### Running a host word -/

theorem runHostWord_ok {w : HostWord} {i : Instr} (decoded : decodeHostWord w = .ok i) (s : State) :
    runHostWord w s = exec i s := by
  rw [runHostWord, decoded]

/-- A word without a row and a word of a reserved HOP's row raise the same fault (R140). -/
theorem runHostWord_malformed {w : HostWord} (malformed : Malformed w) (s : State) :
    runHostWord w s = illegalOperation w s := by
  by_cases defined : (hopField w).toNat < 5
  · rw [runHostWord, decodeHostWord_malformed malformed defined]
  · obtain ⟨i, decoded, meaning⟩ := exec_reservedHop (not_lt.1 defined) s
    rw [runHostWord_ok decoded, meaning]

/-- The two ways a malformed word goes: the host is stuck in FAULT, and everywhere else the fault is R200's (R131, R140). -/
theorem illegalOperation_eq (w : HostWord) (s : State) : illegalOperation w s =
    if s.block.phase = .fault then .fault .hostStuck else .next (faulted .illegalOperation w s) := rfl

/-! ### The phase of a host operation -/

/-- Every row but the three response rows is a host operation (R131). -/
theorem exec_eq_hostOp {i : Instr} (not_ackErr : ∀ k, i ≠ .ackErr k) (not_ackOk : i ≠ .ackOk)
    (not_queryResult : ∀ v0 v1 v2, i ≠ .queryResult v0 v1 v2) (s : State) : ∃ k, exec i s = hostOp s k := by
  cases i with
  | ackErr k => exact absurd rfl (not_ackErr k)
  | ackOk => exact absurd rfl not_ackOk
  | queryResult v0 v1 v2 => exact absurd rfl (not_queryResult v0 v1 v2)
  | _ => exact ⟨_, rfl⟩

/-- Every host word is a host operation, whether it has a row or not (R131, R140). -/
theorem runHostWord_eq_hostOp (w : HostWord) (s : State) : ∃ k, runHostWord w s = hostOp s k := by
  by_cases malformed : Malformed w
  · exact ⟨_, runHostWord_malformed malformed s⟩
  · obtain decoded | decoded | decoded | decoded | decoded := decodeHostWord_formed malformed <;>
      exact ⟨_, runHostWord_ok decoded s⟩

theorem runHostWord_of_fault {s : State} (inFault : s.block.phase = .fault) (w : HostWord) :
    runHostWord w s = .fault .hostStuck := by
  obtain ⟨k, host⟩ := runHostWord_eq_hostOp w s
  rw [host, hostOp_of_fault inFault]

/-- The order of the first two checks of every host word: FAULT, then the must-be-zero bits (R131, R140). -/
theorem runHostWord_eq_ite {w : HostWord} {s : State} {bad : Prop} [Decidable bad] {out : Out}
    (malformed_iff_bad : Malformed w ↔ bad)
    (formed : ¬ Malformed w → s.block.phase ≠ .fault → runHostWord w s = out) :
    runHostWord w s =
      if s.block.phase = .fault then .fault .hostStuck
      else if bad then .next (faulted .illegalOperation w s)
      else out := by
  by_cases inFault : s.block.phase = .fault
  · rw [if_pos inFault, runHostWord_of_fault inFault]
  · rw [if_neg inFault]
    by_cases malformed : Malformed w
    · rw [runHostWord_malformed malformed, illegalOperation_eq, if_neg inFault, if_pos (malformed_iff_bad.1 malformed)]
    · rw [formed malformed inFault, if_neg (mt malformed_iff_bad.2 malformed)]

/-! ### ENCODE -/

/-- The fault of a word's type byte and payload is the one `classify` and the payload rule of queries give (R73, R76). -/
theorem requestFault_eq (w : HostWord) : requestFault w =
    match classify (typeField w) with
    | .undefinedType code => some code
    | .cmd => none
    | .qry => if p0Field w = 0#8 ∧ p1Field w = 0#8 then none else some .operandViolation := by
  unfold requestFault typeField p0Field p1Field
  dsimp only
  obtain ⟨command, range⟩ | ⟨belowQueries, range⟩ | ⟨query, range⟩ | ⟨aboveQueries, range⟩ | ⟨aboveTypes, range⟩ :=
    classify_cases (w.extractLsb' 16 8)
  · rw [command, if_neg (by omega), if_neg (by omega), if_neg (by omega), if_neg (by omega)]
  · rw [belowQueries, if_pos range]
  · rw [query, if_neg (by omega), if_neg (by omega), if_neg (by omega)]
    by_cases payload : w.extractLsb' 8 8 = 0#8 ∧ w.extractLsb' 0 8 = 0#8
    · rw [if_neg (fun rejected => not_and_or.2 rejected.2 payload)]
      exact (if_pos payload).symm
    · rw [if_pos ⟨range.1, not_and_or.1 payload⟩]
      exact (if_neg payload).symm
  · rw [aboveQueries, if_neg (by omega), if_pos range]
  · rw [aboveTypes, if_neg (by omega), if_neg (by omega), if_pos range]

/-- In a transaction ENCODE raises OVERLAP with the whole word, before any look at the request (R132, R204). -/
theorem encodeRequest_inFlight {w : HostWord} {s : State} (hop : hopField w = 1) (reserved : reservedField w = 0#5)
    (inFlight : s.block.phase = .tx ∨ s.block.phase = .rx) :
    encodeRequest (typeField w) (p0Field w) (p1Field w) s = .next (faulted .overlap w s) := by
  rw [encodeRequest, hostOp_of_ne (ne_fault_of_inFlight inFlight), if_pos inFlight, encodeWord_fields hop reserved]
  rfl

/-- Outside a transaction and FAULT, ENCODE of a word whose request has a fault raises it with the whole word (R132). -/
theorem encodeRequest_rejected {w : HostWord} {s : State} {code : FCode} (hop : hopField w = 1)
    (reserved : reservedField w = 0#5) (notFault : s.block.phase ≠ .fault)
    (notInFlight : ¬ (s.block.phase = .tx ∨ s.block.phase = .rx)) (rejected : requestFault w = some code) :
    encodeRequest (typeField w) (p0Field w) (p1Field w) s = .next (faulted code w s) := by
  rw [encodeRequest, hostOp_of_ne notFault, if_neg notInFlight, encodeWord_fields hop reserved]
  rw [requestFault_eq] at rejected
  cases class_eq : classify (typeField w) <;> rw [class_eq] at rejected
  case undefinedType =>
    cases rejected
    rfl
  case cmd => cases rejected
  case qry =>
    by_cases payload : p0Field w = 0#8 ∧ p1Field w = 0#8
    · rw [if_pos payload] at rejected
      cases rejected
    · rw [if_neg payload] at rejected ⊢
      cases rejected
      rfl

/-- Outside a transaction and FAULT, ENCODE of a request without a fault starts it (R132). -/
theorem encodeRequest_accepted {w : HostWord} {s : State} (notFault : s.block.phase ≠ .fault)
    (notInFlight : ¬ (s.block.phase = .tx ∨ s.block.phase = .rx)) (accepted : requestFault w = none) :
    encodeRequest (typeField w) (p0Field w) (p1Field w) s =
      if (typeField w).toNat ≤ 0x05 then .next (startedCommand (typeField w) (p0Field w) (p1Field w) s)
      else .next (startedQuery (typeField w) s) := by
  rw [encodeRequest, hostOp_of_ne notFault, if_neg notInFlight]
  rw [requestFault_eq] at accepted
  obtain ⟨command, range⟩ | ⟨undefinedType, _⟩ | ⟨query, range⟩ | ⟨undefinedType, _⟩ | ⟨undefinedType, _⟩ :=
    classify_cases (typeField w)
  · rw [command, if_pos range.2]
    rfl
  · rw [undefinedType] at accepted
    cases accepted
  · rw [query] at accepted ⊢
    by_cases payload : p0Field w = 0#8 ∧ p1Field w = 0#8
    · rw [if_pos payload, if_neg (by omega), payload.1, payload.2]
      rfl
    · rw [if_neg payload] at accepted
      cases accepted
  · rw [undefinedType] at accepted
    cases accepted
  · rw [undefinedType] at accepted
    cases accepted

/-- Settles O10: the must-be-zero check is the decoder's, and every later check is `encodeRequest`'s, whose fault word is
put together again from the fields it was decoded into. -/
theorem encodeChecksInOrder : Obligations.EncodeChecksInOrder := by
  intro s w hop
  refine runHostWord_eq_ite (malformed_encode_iff hop) fun formed notFault => ?formed
  case formed =>
    have reserved : reservedField w = 0#5 := not_not.1 (mt (malformed_encode_iff hop).2 formed)
    rw [runHostWord_ok (decodeHostWord_encode hop formed)]
    change encodeRequest (typeField w) (p0Field w) (p1Field w) s = _
    by_cases inFlight : s.block.phase = .tx ∨ s.block.phase = .rx
    · rw [if_pos inFlight]
      exact encodeRequest_inFlight hop reserved inFlight
    · rw [if_neg inFlight]
      cases fault : requestFault w with
      | some code => exact encodeRequest_rejected hop reserved notFault inFlight fault
      | none => exact encodeRequest_accepted notFault inFlight fault

/-! ### NOP, ABORT and the malformed words -/

theorem exec_nop_eq (s : State) : exec .nop s = hostOp s (.next s) := rfl

theorem exec_abort_eq (s : State) : exec .abort s = hostOp s (.next (abortTransaction s)) := rfl

/-- Settles O15: of the words with HOP 000 every one but zero is malformed, and zero runs as NOP. -/
theorem nopChangesNothing : Obligations.NopChangesNothing := by
  refine ⟨fun s notFault => ?row, fun s w hop => ?word⟩
  case row => rw [exec_nop_eq, hostOp_of_ne notFault]
  case word =>
    refine runHostWord_eq_ite (malformed_nop_iff hop) fun formed notFault => ?_
    rw [runHostWord_ok (decodeHostWord_nop hop formed), exec_nop_eq, hostOp_of_ne notFault]

/-- Settles O16: ABORT's writes are `abortTransaction`'s, and of HOP 010 the one word that is not malformed is ABORT. -/
theorem abortEndsTransaction : Obligations.AbortEndsTransaction := by
  refine ⟨fun s inFlight => ?inFlight, fun s ready => ?ready, fun s w hop => ?word⟩
  case inFlight =>
    rw [exec_abort_eq, hostOp_of_ne (ne_fault_of_inFlight inFlight), abortTransaction_inFlight inFlight]
  case ready =>
    rw [exec_abort_eq, hostOp_of_ne (ne_fault_of_ready ready), abortTransaction_ready (not_inFlight_of_ready ready)]
  case word =>
    refine runHostWord_eq_ite (malformed_abort_iff hop) fun formed _ => ?_
    rw [runHostWord_ok (decodeHostWord_abort hop formed)]

/-! ### Which words raise ILLEGAL_OPERATION -/

theorem classify_ne_illegalOperation (t : Byte) : classify t ≠ .undefinedType .illegalOperation := by
  obtain ⟨c, _⟩ | ⟨c, _⟩ | ⟨c, _⟩ | ⟨c, _⟩ | ⟨c, _⟩ := classify_cases t <;> simp [c]

/-- The state holds no ILLEGAL_OPERATION fault. -/
def NotIllegal (t : State) : Prop := t.block.phase = .fault → t.block.fCode ≠ .illegalOperation

theorem notIllegal_of_ne {t : State} (notFault : t.block.phase ≠ .fault) : NotIllegal t :=
  fun inFault => absurd inFault notFault

theorem notIllegal_raiseFault {code : FCode} (other : code ≠ .illegalOperation) (w : HostWord) (s : State) :
    NotIllegal (raiseFault code w s) := fun _ => other

theorem encodeRequest_notIllegal {t a b : Byte} {s : State} (notFault : s.block.phase ≠ .fault) :
    ∃ t', encodeRequest t a b s = .next t' ∧ NotIllegal t' := by
  obtain ⟨t', answer⟩ := encodeRequest_exists (t := t) (a := a) (b := b) notFault
  refine ⟨t', answer, ?_⟩
  obtain ⟨_, rfl⟩ | ⟨_, ⟨_, rfl⟩ | ⟨_, _, _, rfl⟩ | ⟨_, _, rfl⟩ | ⟨code, undefinedType, _, rfl⟩⟩ :=
    encodeRequest_next answer
  · exact notIllegal_raiseFault (by decide) _ _
  · exact notIllegal_of_ne (by simp)
  · exact notIllegal_of_ne (by simp)
  · exact notIllegal_raiseFault (by decide) _ _
  · refine notIllegal_raiseFault ?_ _ _
    rintro rfl
    exact classify_ne_illegalOperation t undefinedType

theorem abortTransaction_phase_ne_fault {s : State} (notFault : s.block.phase ≠ .fault) :
    (abortTransaction s).block.phase ≠ .fault := by
  by_cases inFlight : InFlight s
  · rw [abortTransaction_inFlight inFlight]
    simp
  · rw [abortTransaction_ready inFlight]
    exact notFault

theorem execFmtf_notIllegal {h : BitVec 15} {s : State} (notFault : s.block.phase ≠ .fault) :
    ∃ t, execFmtf h s = .next t ∧ NotIllegal t := by
  rw [execFmtf, hostOp_of_ne notFault]
  split
  · exact ⟨_, rfl, notIllegal_raiseFault (by decide) _ _⟩
  · exact ⟨_, rfl, notIllegal_of_ne notFault⟩

/-- A word that is not malformed completes outside FAULT, and no fault it raises is ILLEGAL_OPERATION (R205). -/
theorem runHostWord_notIllegal {w : HostWord} (formed : ¬ Malformed w) {s : State} (notFault : s.block.phase ≠ .fault) :
    ∃ t, runHostWord w s = .next t ∧ NotIllegal t := by
  obtain nop | encode | abort | fmtf | fmtd := decodeHostWord_formed formed
  · rw [runHostWord_ok nop]
    exact ⟨s, hostOp_of_ne notFault, notIllegal_of_ne notFault⟩
  · rw [runHostWord_ok encode]
    exact encodeRequest_notIllegal notFault
  · rw [runHostWord_ok abort]
    exact ⟨_, hostOp_of_ne notFault, notIllegal_of_ne (abortTransaction_phase_ne_fault notFault)⟩
  · rw [runHostWord_ok fmtf]
    exact execFmtf_notIllegal notFault
  · rw [runHostWord_ok fmtd]
    exact ⟨_, hostOp_of_ne notFault, notIllegal_of_ne notFault⟩

/-- Settles O21: a malformed word runs as `illegalOperation`, and every other word as one of five rows that never raise
that fault. -/
theorem malformedWordsAreIllegal : Obligations.MalformedWordsAreIllegal := by
  refine ⟨fun s w malformed => ?malformed, fun w formed => ?decodes, fun s w formed notFault => ?completes, rfl⟩
  case malformed => exact (runHostWord_malformed malformed s).trans (illegalOperation_eq w s)
  case decodes =>
    obtain decoded | decoded | decoded | decoded | decoded := decodeHostWord_formed formed <;> exact ⟨_, decoded⟩
  case completes => exact runHostWord_notIllegal formed notFault

/-- Settles O24: every host word and every row but the responses' is a `hostOp`, which has no step in FAULT. -/
theorem hostIsStuckInFault : Obligations.HostIsStuckInFault := by
  refine ⟨fun s w inFault => ⟨runHostWord_of_fault inFault w, ?disabled⟩,
    fun s i inFault not_ackErr not_ackOk not_queryResult => ?row, fun s w notFault malformed => ?word⟩
  case disabled =>
    rw [inFault]
    rfl
  case row =>
    obtain ⟨k, host⟩ := exec_eq_hostOp not_ackErr not_ackOk not_queryResult s
    rw [host, hostOp_of_fault inFault]
  case word =>
    change runHostWord w s = _
    rw [runHostWord_malformed malformed, illegalOperation_eq, if_neg notFault]

end Sys2Proof.Machine

/-! TXPOP is the TX side's only step: it is there in phase TX only, and it takes the byte on offer (42_encoder.md R135,
R136). -/

namespace Sys2Proof.Machine

open Sys2Proof.Safety

/-! ### The TX side -/

theorem txPop_of_ne {s : State} (notTx : s.block.phase ≠ .tx) : txPop s = .fault .txNotOffered := by
  rw [txPop, if_neg notTx]

theorem enabled_txPop_iff (p : Phase) : Input.txPop.enabled p = true ↔ p = .tx := beq_iff_eq

/-- TXPOP's writes, said by the value TXIDX had (R136). -/
theorem advanceFrame_eq {b : Block} (position : b.txIdx.toNat < 6) : advanceFrame b =
    if b.txIdx.toNat = 5 then { b with txIdx := 6, rxCnt := 0, phase := .rx } else { b with txIdx := b.txIdx + 1 } := by
  by_cases last : b.txIdx.toNat = 5
  · rw [if_pos last, advanceFrame_last last]
  · rw [if_neg last, advanceFrame_before (by omega)]

/-- Settles O26: the invariant keeps TXIDX inside the frame in TX, and the other phases offer nothing. -/
theorem txOfferByPhase : Obligations.TxOfferByPhase := by
  refine fun s inv => ⟨fun tx => ?offered, fun notTx => ?silent⟩
  case offered =>
    have position : s.block.txIdx.toNat < 6 := (inv.tx_position tx).1
    exact ⟨position, txOffer_of_tx tx position⟩
  case silent =>
    exact ⟨txOffer_of_ne notTx, txPop_of_ne notTx, Bool.eq_false_iff.2 (mt (enabled_txPop_iff _).1 notTx)⟩

/-- Settles O27: TXPOP emits the byte on offer, and `advanceFrame` opens the capture on the sixth. -/
theorem txPopEmitsAndAdvances : Obligations.TxPopEmitsAndAdvances := by
  refine ⟨fun s position tx => ?pops, fun s notTx => ?disabled⟩
  case pops => exact (txPop_of_tx tx position).trans (by rw [advanceFrame_eq position])
  case disabled => exact Bool.eq_false_iff.2 (mt (enabled_txPop_iff _).1 notTx)

end Sys2Proof.Machine

/-! A response is captured byte by byte (43_decoder.md R151): every byte but the last moves the capture on, the last one
decodes what RXBUF holds. So what a whole response does is the decoder's value of its bytes (R154 to R157). -/

namespace Sys2Proof.Machine

open Sys2Proof.Safety Sys2Proof.Claims

/-! ### One byte of a capture -/

/-- A capture still short of its last byte: `n` bytes in RXBUF. -/
def capturing (buf : Vector Byte 7) (n : BitVec 3) (s : State) : State :=
  { s with block := { s.block with rxBuf := buf, rxCnt := n } }

theorem toNat_add_one_of_lt {n : BitVec 3} (bound : n.toNat < 7) : (n + 1).toNat = n.toNat + 1 := by
  have no_carry : n.toNat + (1 : BitVec 3).toNat < 2 ^ 3 := Nat.succ_lt_succ bound
  exact BitVec.toNat_add_of_lt no_carry

/-- In RX a byte before the last is stored at RXCNT, and RXCNT advances (R151). -/
theorem rxByte_before_last {k : Byte} {s : State} (rx : s.block.phase = .rx) (room : s.block.rxCnt.toNat < 7)
    (more : s.block.rxCnt.toNat + 1 < s.block.expLen.toNat) : rxByte k s =
      .next (capturing (s.block.rxBuf.set s.block.rxCnt.toNat k room) (s.block.rxCnt + 1) s) := by
  have short : s.block.rxCnt + 1 ≠ s.block.expLen := by
    intro full
    rw [← full, toNat_add_one_of_lt room] at more
    omega
  rw [rxByte_of_rx rx room, afterCapture, if_neg short]
  rfl

/-- In RX the last byte completes the response, and what the decoder gives is the result (R151). -/
theorem rxByte_last {k : Byte} {s : State} {r : Result} (rx : s.block.phase = .rx) (room : s.block.rxCnt.toNat < 7)
    (last : s.block.rxCnt.toNat + 1 = s.block.expLen.toNat)
    (decoded : decodeResponse s.cfg s.block.reqClass s.block.reqType
      ((s.block.rxBuf.set s.block.rxCnt.toNat k room).toList.take s.block.expLen.toNat) = some r) : rxByte k s =
      .next (captured (s.block.rxBuf.set s.block.rxCnt.toNat k room) (s.block.rxCnt + 1) r.kind r.val s) := by
  have full : s.block.rxCnt + 1 = s.block.expLen := BitVec.eq_of_toNat_eq ((toNat_add_one_of_lt room).trans last)
  rw [rxByte_of_rx rx room, afterCapture, if_pos full]
  dsimp only
  rw [decoded]
  rfl

/-! ### The decoder on the capture buffer -/

theorem toList_eq_bytes (buf : Vector Byte 7) :
    buf.toList = [buf[0], buf[1], buf[2], buf[3], buf[4], buf[5], buf[6]] := by
  apply List.ext_getElem
  · simp
  · intro i inBuf _
    have bound : i < 7 := by simpa using inBuf
    interval_cases i <;> rfl

theorem decodeResponse_cmd (p : Params) (t : Byte) (buf : Vector Byte 7) :
    decodeResponse p .cmd t (buf.toList.take 1) = some (decodeCommand buf[0]) := by
  rw [toList_eq_bytes]
  rfl

theorem decodeResponse_qry (p : Params) (t : Byte) (buf : Vector Byte 7) :
    decodeResponse p .qry t (buf.toList.take 7) =
      (p.kindOf t).map fun kind => decodeQuery kind buf[0] buf[1] buf[2] buf[3] buf[4] buf[5] buf[6] := by
  rw [toList_eq_bytes]
  rfl

/-- The decoder has a value at the length and the types R158 names, which the invariants keep for the class. -/
theorem decodeResponse_exists (p : Params) {c : ReqClass} {t : Byte} (accepted : classMatches c t)
    (buf : Vector Byte 7) :
    ∃ r, decodeResponse p c t (buf.toList.take (if c = .cmd then 1 else 7)) = some r := by
  cases c with
  | cmd => exact ⟨_, decodeResponse_cmd p t buf⟩
  | qry =>
    obtain ⟨kind, defined⟩ := Option.isSome_iff_exists.1 ((kindOf_isSome_iff p t).2 accepted)
    exact ⟨_, (decodeResponse_qry p t buf).trans (by rw [defined, Option.map_some])⟩

/-- Settles O29: the invariants keep the capture short of EXPLEN, and EXPLEN the length at which the decoder has a
value. -/
theorem captureStoresAndCompletes : Obligations.CaptureStoresAndCompletes := by
  intro s k inv rx
  have short : s.block.rxCnt.toNat < s.block.expLen.toNat := (inv.rx_position rx).2
  have room : s.block.rxCnt.toNat < 7 := by omega
  refine ⟨room, fun more => rxByte_before_last rx room more, fun last => ?completes⟩
  case completes =>
    have request : s.block.expLen ≠ 0 := inv.request_accepted (.inr (.inl rx))
    have length : s.block.expLen.toNat = if s.block.reqClass = .cmd then 1 else 7 := by
      rw [inv.length_of_class request, apply_ite BitVec.toNat]
      rfl
    obtain ⟨r, decoded⟩ := decodeResponse_exists s.cfg (inv.class_of_type request)
      (s.block.rxBuf.set s.block.rxCnt.toNat k room)
    rw [← length] at decoded
    exact ⟨r, decoded, rxByte_last rx room last decoded⟩

/-! ### A command's response -/

/-- The one byte of a command's response completes it with that byte's acknowledgement (R151, R155). -/
theorem rxByte_cmd {s : State} (k : Byte) (rx : s.block.phase = .rx) (cmd : s.block.reqClass = .cmd)
    (start : s.block.rxCnt = 0) (length : s.block.expLen = 1) : rxByte k s =
      .next (captured (s.block.rxBuf.set 0 k) 1 (decodeCommand k).kind (decodeCommand k).val s) := by
  have byte := rxByte_last (k := k) (s := s) (r := decodeCommand k) rx (by simp [start]) (by simp [start, length])
    (by simp [start, length, cmd, decodeResponse_cmd])
  simpa [start] using byte

theorem decodeCommand_of_ne {k : Byte} (other : k ≠ 0x6F) : decodeCommand k = .ackErr k := if_neg other

/-- Settles O30: both acknowledgement rows are one byte's arrival, and `decodeCommand` tells them apart. -/
theorem commandAcknowledged : Obligations.CommandAcknowledged := by
  refine fun s rx cmd start length => ⟨rxByte_cmd 0x6F rx cmd start length, fun k other => ?ackErr⟩
  case ackErr =>
    have byte := rxByte_cmd k rx cmd start length
    rw [decodeCommand_of_ne other] at byte
    exact byte

/-! ### A sequence of response bytes -/

theorem rxSeq_append {ks ls : List Byte} {s t : State} (first : rxSeq ks s = .next t) :
    rxSeq (ks ++ ls) s = rxSeq ls t := by
  induction ks generalizing s with
  | nil => cases first; rfl
  | cons k ks ih =>
    obtain ⟨m, byte, rest⟩ := rxSeq_next_cons first
    rw [List.cons_append, rxSeq_cons_next byte, ih rest]

theorem rxSeq_singleton {k : Byte} {s t : State} (byte : rxByte k s = .next t) : rxSeq [k] s = .next t := by
  rw [rxSeq_cons_next byte, rxSeq_nil]

theorem take_set_toList (buf : Vector Byte 7) {i : Nat} (k : Byte) (room : i < 7) :
    (buf.set i k room).toList.take (i + 1) = buf.toList.take i ++ [k] := by
  rw [Vector.toList_set, List.take_add_one, List.take_set_of_le (le_refl i)]
  simp [room]

/-- Bytes that leave the capture short of EXPLEN follow in RXBUF on what was captured before (R151, R152). -/
theorem rxSeq_before_last {ks : List Byte} {s : State} (rx : s.block.phase = .rx)
    (more : s.block.rxCnt.toNat + ks.length < s.block.expLen.toNat) :
    ∃ buf n, n.toNat = s.block.rxCnt.toNat + ks.length ∧
      buf.toList.take n.toNat = s.block.rxBuf.toList.take s.block.rxCnt.toNat ++ ks ∧
      rxSeq ks s = .next (capturing buf n s) := by
  induction ks generalizing s with
  | nil => exact ⟨s.block.rxBuf, s.block.rxCnt, rfl, by simp, rfl⟩
  | cons k ks ih =>
    rw [List.length_cons] at more
    have room : s.block.rxCnt.toNat < 7 := by omega
    have count := toNat_add_one_of_lt room
    have byte := rxByte_before_last (k := k) rx room (by omega)
    obtain ⟨buf, n, number, bytes, rest⟩ :=
      ih (s := capturing (s.block.rxBuf.set s.block.rxCnt.toNat k room) (s.block.rxCnt + 1) s) rx
        (by simp only [capturing, count]; omega)
    simp only [capturing, count, take_set_toList] at number bytes
    refine ⟨buf, n, ?number, ?bytes, ?run⟩
    case number => rw [number, List.length_cons]; omega
    case bytes => rw [bytes, List.append_assoc, List.singleton_append]
    case run => rw [rxSeq_cons_next byte, rest]; rfl

/-- The bytes that bring the capture to EXPLEN complete the response, and RXBUF keeps them (R151). -/
theorem rxSeq_complete {ks : List Byte} {s : State} {r : Result} (rx : s.block.phase = .rx)
    (short : s.block.rxCnt.toNat < s.block.expLen.toNat)
    (last : s.block.rxCnt.toNat + ks.length = s.block.expLen.toNat)
    (decoded : decodeResponse s.cfg s.block.reqClass s.block.reqType
      (s.block.rxBuf.toList.take s.block.rxCnt.toNat ++ ks) = some r) :
    ∃ buf, buf.toList.take s.block.expLen.toNat = s.block.rxBuf.toList.take s.block.rxCnt.toNat ++ ks ∧
      rxSeq ks s = .next (captured buf s.block.expLen r.kind r.val s) := by
  obtain rfl | ⟨ks, k, rfl⟩ := List.eq_nil_or_concat' ks
  case inl =>
    rw [List.length_nil] at last
    omega
  case inr =>
    rw [List.length_append, List.length_singleton] at last
    obtain ⟨buf, n, number, bytes, run⟩ := rxSeq_before_last (ks := ks) rx (by omega)
    have room : n.toNat < 7 := by omega
    have full : n + 1 = s.block.expLen := BitVec.eq_of_toNat_eq (by rw [toNat_add_one_of_lt room]; omega)
    have kept : (buf.set n.toNat k room).toList.take s.block.expLen.toNat =
        s.block.rxBuf.toList.take s.block.rxCnt.toNat ++ (ks ++ [k]) := by
      rw [← full, toNat_add_one_of_lt room, take_set_toList, bytes, List.append_assoc]
    refine ⟨buf.set n.toNat k room, kept, ?run⟩
    case run =>
      have byte := rxByte_last (k := k) (s := capturing buf n s) (r := r) rx room
        (by simp only [capturing]; omega) (by simp only [capturing, kept, decoded])
      rw [rxSeq_append run, rxSeq_singleton byte, ← full]
      rfl

/-! ### A query's response -/

theorem markersOk_iff (r0 r1 r5 r6 : Byte) :
    markersOk r0 r1 r5 r6 = true ↔ r0 = 0xCA ∧ r1 = 0xCB ∧ r5 = 0xCE ∧ r6 = 0xCF := by
  simp [markersOk, Config.rxH0, Config.rxH1, Config.rxT0, Config.rxT1, and_assoc]

/-- Three bytes side by side are the number they are the digits of, the first one on top (44_value_codecs.md R171). -/
theorem parseU24_toNat (v0 v1 v2 : Byte) :
    (parseU24 v0 v1 v2).toNat = v0.toNat * 65536 + v1.toNat * 256 + v2.toNat := by
  have side_by_side : parseU24 v0 v1 v2 = (v0 ++ v1) ++ v2 := by
    ext i hi
    simp only [parseU24, BitVec.getElem_or, BitVec.getElem_shiftLeft, BitVec.getElem_setWidth]
    grind
  rw [side_by_side, BitVec.toNat_append, BitVec.toNat_append, ← Nat.shiftLeft_add_eq_or_of_lt v1.isLt,
    ← Nat.shiftLeft_add_eq_or_of_lt v2.isLt, Nat.shiftLeft_eq, Nat.shiftLeft_eq]
  omega

/-- The registers a parsed value is held in are those R30 gives it (R157, R170 to R172). -/
theorem valueResult_parseValue (kind : ValueKind) (v0 v1 v2 : Byte) :
    valueResult kind v0 v1 v2 (parseValue kind v0 v1 v2).kind (parseValue kind v0 v1 v2).val := by
  cases kind with
  | bool =>
    refine ⟨rfl, ?_⟩
    by_cases zero : v2 = 0x00 <;> simp [parseValue, parseBool, Result.val, zero]
  | u24 => exact ⟨rfl, parseU24_toNat v0 v1 v2⟩
  | dur => exact ⟨rfl, parseU24_toNat v0 v1 v2⟩

/-- The registers a decoded query response is held in are R156's: the marker check comes before the value. -/
theorem queryOutcome_decodeQuery (kind : ValueKind) (r : Vector Byte 7) :
    queryOutcome kind r (decodeQuery kind r[0] r[1] r[2] r[3] r[4] r[5] r[6]).kind
      (decodeQuery kind r[0] r[1] r[2] r[3] r[4] r[5] r[6]).val := by
  by_cases markers : markersOk r[0] r[1] r[5] r[6] = true
  · rw [queryOutcome, if_pos ((markersOk_iff _ _ _ _).1 markers), decodeQuery, if_pos markers]
    exact valueResult_parseValue kind r[2] r[3] r[4]
  · rw [queryOutcome, if_neg (mt (markersOk_iff _ _ _ _).2 markers), decodeQuery, if_neg markers]
    exact ⟨rfl, rfl⟩

theorem take_all_toList (buf : Vector Byte 7) : buf.toList.take 7 = buf.toList :=
  List.take_of_length_le (by simp)

/-- Seven bytes after a query of a defined type have a value, which is R156's. -/
theorem decodeResponse_queryOutcome {p : Params} {t : Byte} {kind : ValueKind} (defined : p.kindOf t = some kind)
    (r : Vector Byte 7) :
    ∃ result, decodeResponse p .qry t r.toList = some result ∧ queryOutcome kind r result.kind result.val := by
  refine ⟨_, ?decoded, queryOutcome_decodeQuery kind r⟩
  case decoded =>
    have value := decodeResponse_qry p t r
    rwa [take_all_toList, defined, Option.map_some] at value

/-- Settles O31: seven bytes complete a query's capture, RXBUF is then those bytes, and the result is the decoder's. -/
theorem queryResponseDecoded : Obligations.QueryResponseDecoded := by
  intro s kind r rx qry start length defined
  obtain ⟨result, decoded, outcome⟩ := decodeResponse_queryOutcome defined r
  obtain ⟨buf, bytes, run⟩ := rxSeq_complete (ks := r.toList) (r := result) rx (by simp [start, length])
    (by simp [start, length]) (by simpa [start, qry] using decoded)
  have kept : buf = r := Vector.toList_inj.1 (by simpa [start, length, take_all_toList] using bytes)
  rw [kept, length] at run
  exact ⟨result.kind, result.val, outcome, run⟩

end Sys2Proof.Machine

/-! FMTF and FMTD each split a number into two bytes, a quotient and a remainder (44_value_codecs.md R174 to R177). A
byte holds the quotient because the number is bounded: FMTF faults above its bound, FMTD wraps below it. -/

namespace Sys2Proof.Machine

open Sys2Proof.Claims

/-! ### Which words are malformed -/

theorem malformed_fmtf_iff {w : HostWord} (hop : hopField w = 3) :
    Malformed w ↔ reservedField w ≠ 0#5 ∨ fmtfZeroField w ≠ 0#9 := by
  simp [malformed_iff, hop]

theorem malformed_fmtd_iff {w : HostWord} (hop : hopField w = 4) : Malformed w ↔ reservedField w ≠ 0#5 := by
  simp [malformed_iff, hop]

/-! ### Two bytes of a number -/

theorem byte_ofNat_toNat {n : Nat} (fits : n < 256) : (BitVec.ofNat 8 n).toNat = n :=
  (BitVec.toNat_ofNat n 8).trans (Nat.mod_eq_of_lt fits)

/-- The high and the low byte of a number of two bytes are its two digits to the base 256. -/
theorem highByte_lowByte_toNat {n : Nat} (fits : n < 65536) :
    (BitVec.ofNat 8 (n / 256)).toNat * 256 + (BitVec.ofNat 8 (n % 256)).toNat = n := by
  rw [byte_ofNat_toNat (Nat.div_lt_of_lt_mul fits), byte_ofNat_toNat (Nat.mod_lt n (by decide))]
  exact Nat.div_add_mod' n 256

/-! ### FMTF -/

/-- Up to 255.99 FMTF writes the integer part and the hundredths (R175). -/
theorem exec_fmtf_of_le {s : State} {h : BitVec 15} (notFault : s.block.phase ≠ .fault) (inRange : h.toNat ≤ 25599) :
    exec (.fmtf h) s =
      .next (writeFormat (BitVec.ofNat 8 (h.toNat / 100)) (BitVec.ofNat 8 (h.toNat % 100)) s) :=
  (hostOp_of_ne notFault).trans (if_neg (not_lt.2 inRange))

/-- Above 255.99 FMTF faults with its own word (R175). -/
theorem exec_fmtf_of_gt {s : State} {h : BitVec 15} (notFault : s.block.phase ≠ .fault) (above : 25599 < h.toNat) :
    exec (.fmtf h) s = .next (raiseFault .operandViolation (fmtfWord h) s) :=
  (hostOp_of_ne notFault).trans (if_pos above)

/-- Settles O17: up to 25599 the integer part and the hundredths fit a byte each, and of HOP 011 the words that are not
malformed run as FMTF of their own operand. -/
theorem fmtfSplitsHundredths : Obligations.FmtfSplitsHundredths := by
  refine ⟨fun s h notFault inRange => ?inRange, fun s h notFault above => ?above, fun s w hop => ?word⟩
  case inRange =>
    have integer_fits : h.toNat / 100 < 256 := by omega
    have hundredths_fit : h.toNat % 100 < 256 := by omega
    exact ⟨_, _, byte_ofNat_toNat integer_fits, byte_ofNat_toNat hundredths_fit, exec_fmtf_of_le notFault inRange⟩
  case above => exact exec_fmtf_of_gt notFault above
  case word =>
    refine runHostWord_eq_ite (malformed_fmtf_iff hop) fun formed _ => ?_
    exact runHostWord_ok (decodeHostWord_fmtf hop formed) s

/-! ### FMTD -/

/-- FMTD has no range check: it writes the two bytes of the wrapped seconds (R177). -/
theorem exec_fmtd_of_ne {s : State} (sec : BitVec 24) (notFault : s.block.phase ≠ .fault) :
    exec (.fmtd sec) s = .next (writeFormat (BitVec.ofNat 8 (sec.toNat % 65536 / 256))
      (BitVec.ofNat 8 (sec.toNat % 65536 % 256)) s) := hostOp_of_ne notFault

/-- Settles O19: the wrapped seconds are a number of two bytes, and of HOP 100 the words that are not malformed run as
FMTD of their own operand. -/
theorem fmtdWrapsSeconds : Obligations.FmtdWrapsSeconds := by
  refine ⟨fun s sec notFault => ?row, fun s w hop => ?word⟩
  case row =>
    have two_bytes : sec.toNat % 65536 < 65536 := Nat.mod_lt _ (by decide)
    exact ⟨_, _, highByte_lowByte_toNat two_bytes, exec_fmtd_of_ne sec notFault⟩
  case word =>
    refine runHostWord_eq_ite (malformed_fmtd_iff hop) fun formed _ => ?_
    exact runHostWord_ok (decodeHostWord_fmtd hop formed) s

end Sys2Proof.Machine

/-! Outside FAULT a host word's first fault in R209's order is what its step takes, and where it has none the step keeps
the fault registers (60_exceptions.md R200 to R206). The cases of `HostFault` exclude each other, so the fault is one. The
channel's steps and RESET never enter FAULT. -/

namespace Sys2Proof.Machine

open Sys2Proof.Claims

/-! ### Phases outside FAULT -/

theorem ready_or_inFlight {s : State} (notFault : s.block.phase ≠ .fault) : Ready s ∨ InFlight s := by
  unfold Ready InFlight
  cases phase : s.block.phase with
  | fault => exact absurd phase notFault
  | _ => simp

/-! ### A word of HOP 011 from its fields -/

theorem fmtfZeroField_append_hundredthsField (w : HostWord) : fmtfZeroField w ++ hundredthsField w = operandField w :=
  BitVec.extractLsb'_append_extractLsb'_eq_extractLsb' rfl

/-- A word of HOP 011 that is not malformed is FMTF's word of its own operand (R84). -/
theorem fmtfWord_fields {w : HostWord} (hop : hopField w = 3) (formed : ¬ Malformed w) :
    fmtfWord (hundredthsField w) = w := by
  rw [malformed_fmtf_iff hop, not_or, not_not, not_not] at formed
  obtain ⟨reserved, upper⟩ := formed
  apply hostWord_eq_of_fields
  · rw [hopField_fmtfWord, hop]
  · rw [← reservedField_append_operandField, ← reservedField_append_operandField,
      ← fmtfZeroField_append_hundredthsField, ← fmtfZeroField_append_hundredthsField, reservedField_fmtfWord,
      fmtfZeroField_fmtfWord, hundredthsField_fmtfWord, reserved, upper]
    rfl

/-! ### The cases of `HostFault` -/

theorem hopField_lt_of_formed {w : HostWord} (formed : ¬ Malformed w) : (hopField w).toNat < 5 :=
  not_le.1 fun reservedHop => formed (.inl reservedHop)

/-- `HostFault` in terms of the decoder's fields. -/
theorem hostFault_iff (s : State) (w : HostWord) (o : Option FCode) : HostFault s w o ↔
    (Malformed w ∧ o = some .illegalOperation) ∨
    (¬ Malformed w ∧ hopField w = 1 ∧ InFlight s ∧ o = some .overlap) ∨
    (¬ Malformed w ∧ hopField w = 1 ∧ Ready s ∧ o = requestFault w) ∨
    (¬ Malformed w ∧ hopField w = 3 ∧
      o = if 25599 < (hundredthsField w).toNat then some .operandViolation else none) ∨
    (¬ Malformed w ∧ (hopField w = 0 ∨ hopField w = 2 ∨ hopField w = 4) ∧ o = none) := Iff.rfl

theorem hostFault_malformed_iff {s : State} {w : HostWord} {o : Option FCode} (malformed : Malformed w) :
    HostFault s w o ↔ o = some .illegalOperation := by
  simp [hostFault_iff, malformed]

theorem hostFault_inFlight_iff {s : State} {w : HostWord} {o : Option FCode} (formed : ¬ Malformed w)
    (hop : hopField w = 1) (inFlight : InFlight s) : HostFault s w o ↔ o = some .overlap := by
  have notReady : ¬ Ready s := fun ready => not_inFlight_of_ready ready inFlight
  simp [hostFault_iff, formed, hop, inFlight, notReady]

theorem hostFault_ready_iff {s : State} {w : HostWord} {o : Option FCode} (formed : ¬ Malformed w)
    (hop : hopField w = 1) (ready : Ready s) : HostFault s w o ↔ o = requestFault w := by
  simp [hostFault_iff, formed, hop, ready, not_inFlight_of_ready ready]

theorem hostFault_fmtf_iff {s : State} {w : HostWord} {o : Option FCode} (formed : ¬ Malformed w)
    (hop : hopField w = 3) :
    HostFault s w o ↔ o = if 25599 < (hundredthsField w).toNat then some .operandViolation else none := by
  simp [hostFault_iff, formed, hop]

theorem hostFault_faultless_iff {s : State} {w : HostWord} {o : Option FCode} (formed : ¬ Malformed w)
    (hop : hopField w = 0 ∨ hopField w = 2 ∨ hopField w = 4) : HostFault s w o ↔ o = none := by
  obtain nop | abort | fmtd := hop
  · simp [hostFault_iff, formed, nop]
  · simp [hostFault_iff, formed, abort]
  · simp [hostFault_iff, formed, fmtd]

/-- No two cases of `HostFault` hold together (R209). -/
theorem hostFault_unique {s : State} {w : HostWord} {o o' : Option FCode} (first : HostFault s w o)
    (second : HostFault s w o') : o = o' := by
  obtain ⟨malformed, rfl⟩ | ⟨formed, hop, inFlight, rfl⟩ | ⟨formed, hop, ready, rfl⟩ | ⟨formed, hop, rfl⟩ |
    ⟨formed, hop, rfl⟩ := (hostFault_iff s w o).1 first
  · exact ((hostFault_malformed_iff malformed).1 second).symm
  · exact ((hostFault_inFlight_iff formed hop inFlight).1 second).symm
  · exact ((hostFault_ready_iff formed hop ready).1 second).symm
  · exact ((hostFault_fmtf_iff formed hop).1 second).symm
  · exact ((hostFault_faultless_iff formed hop).1 second).symm

/-- Outside FAULT every host word is in one of the cases of `HostFault`. -/
theorem hostFault_exists {s : State} (notFault : s.block.phase ≠ .fault) (w : HostWord) : ∃ o, HostFault s w o := by
  obtain malformed | formed := em (Malformed w)
  · exact ⟨_, (hostFault_malformed_iff malformed).2 rfl⟩
  · obtain nop | encode | abort | fmtf | fmtd := definedHop_cases _ (hopField_lt_of_formed formed)
    · exact ⟨_, (hostFault_faultless_iff formed (.inl nop)).2 rfl⟩
    · obtain ready | inFlight := ready_or_inFlight notFault
      · exact ⟨_, (hostFault_ready_iff formed encode ready).2 rfl⟩
      · exact ⟨_, (hostFault_inFlight_iff formed encode inFlight).2 rfl⟩
    · exact ⟨_, (hostFault_faultless_iff formed (.inr (.inl abort))).2 rfl⟩
    · exact ⟨_, (hostFault_fmtf_iff formed fmtf).2 rfl⟩
    · exact ⟨_, (hostFault_faultless_iff formed (.inr (.inr fmtd))).2 rfl⟩

/-! ### The step of a host word by its fault -/

/-- `t` is not in FAULT and its fault registers are those of `s`. -/
def NoFaultFrom (s t : State) : Prop :=
  t.block.phase ≠ .fault ∧ t.block.fCode = s.block.fCode ∧ t.block.fWord = s.block.fWord

/-- The host word's step reports the fault `o` with the effect of R200, or completes without one. -/
def Reports (s : State) (w : HostWord) : Option FCode → Prop
  | some code => runHostWord w s = .next (faulted code w s)
  | none => ∃ t, runHostWord w s = .next t ∧ NoFaultFrom s t

theorem noFaultFrom_abortTransaction {s : State} (notFault : s.block.phase ≠ .fault) :
    NoFaultFrom s (abortTransaction s) := by
  refine ⟨abortTransaction_phase_ne_fault notFault, ?_⟩
  by_cases inFlight : InFlight s
  · rw [abortTransaction_inFlight inFlight]
    exact ⟨rfl, rfl⟩
  · rw [abortTransaction_ready inFlight]
    exact ⟨rfl, rfl⟩

theorem reports_malformed {s : State} {w : HostWord} (notFault : s.block.phase ≠ .fault) (malformed : Malformed w) :
    Reports s w (some .illegalOperation) :=
  (runHostWord_malformed malformed s).trans (hostOp_of_ne notFault)

theorem runHostWord_encode {w : HostWord} (formed : ¬ Malformed w) (hop : hopField w = 1) (s : State) :
    runHostWord w s = encodeRequest (typeField w) (p0Field w) (p1Field w) s :=
  runHostWord_ok (decodeHostWord_encode hop formed) s

theorem reports_encode_inFlight {s : State} {w : HostWord} (formed : ¬ Malformed w) (hop : hopField w = 1)
    (inFlight : InFlight s) : Reports s w (some .overlap) := by
  have reserved : reservedField w = 0#5 := not_not.1 (mt (malformed_encode_iff hop).2 formed)
  exact (runHostWord_encode formed hop s).trans (encodeRequest_inFlight hop reserved inFlight)

theorem reports_encode_ready {s : State} {w : HostWord} (formed : ¬ Malformed w) (hop : hopField w = 1)
    (ready : Ready s) : Reports s w (requestFault w) := by
  have reserved : reservedField w = 0#5 := not_not.1 (mt (malformed_encode_iff hop).2 formed)
  have notFault := ne_fault_of_ready ready
  have notInFlight := not_inFlight_of_ready ready
  cases fault : requestFault w with
  | some code =>
    exact (runHostWord_encode formed hop s).trans (encodeRequest_rejected hop reserved notFault notInFlight fault)
  | none =>
    have accepted := (runHostWord_encode formed hop s).trans (encodeRequest_accepted notFault notInFlight fault)
    split at accepted
    · exact ⟨_, accepted, by simp [startedCommand, started], rfl, rfl⟩
    · exact ⟨_, accepted, by simp [startedQuery, started], rfl, rfl⟩

theorem reports_fmtf {s : State} {w : HostWord} (notFault : s.block.phase ≠ .fault) (formed : ¬ Malformed w)
    (hop : hopField w = 3) :
    Reports s w (if 25599 < (hundredthsField w).toNat then some .operandViolation else none) := by
  have row := runHostWord_ok (decodeHostWord_fmtf hop formed) s
  by_cases above : 25599 < (hundredthsField w).toNat
  · rw [exec_fmtf_of_gt notFault above, fmtfWord_fields hop formed] at row
    rw [if_pos above]
    exact row
  · rw [exec_fmtf_of_le notFault (not_lt.1 above)] at row
    rw [if_neg above]
    exact ⟨_, row, notFault, rfl, rfl⟩

theorem reports_faultless {s : State} {w : HostWord} (notFault : s.block.phase ≠ .fault) (formed : ¬ Malformed w)
    (hop : hopField w = 0 ∨ hopField w = 2 ∨ hopField w = 4) : Reports s w none := by
  obtain nop | abort | fmtd := hop
  · have row := runHostWord_ok (decodeHostWord_nop nop formed) s
    rw [exec_nop_eq, hostOp_of_ne notFault] at row
    exact ⟨s, row, notFault, rfl, rfl⟩
  · have row := runHostWord_ok (decodeHostWord_abort abort formed) s
    rw [exec_abort_eq, hostOp_of_ne notFault] at row
    exact ⟨_, row, noFaultFrom_abortTransaction notFault⟩
  · have row := runHostWord_ok (decodeHostWord_fmtd fmtd formed) s
    rw [exec_fmtd_of_ne _ notFault] at row
    exact ⟨_, row, notFault, rfl, rfl⟩

/-- Outside FAULT a host word's step is the one its case of `HostFault` says (R200 to R206). -/
theorem reports_of_hostFault {s : State} {w : HostWord} {o : Option FCode} (notFault : s.block.phase ≠ .fault)
    (fault : HostFault s w o) : Reports s w o := by
  obtain ⟨malformed, rfl⟩ | ⟨formed, hop, inFlight, rfl⟩ | ⟨formed, hop, ready, rfl⟩ | ⟨formed, hop, rfl⟩ |
    ⟨formed, hop, rfl⟩ := (hostFault_iff s w o).1 fault
  · exact reports_malformed notFault malformed
  · exact reports_encode_inFlight formed hop inFlight
  · exact reports_encode_ready formed hop ready
  · exact reports_fmtf notFault formed hop
  · exact reports_faultless notFault formed hop

/-! ### The other agents -/

theorem txPop_phase_ne_fault {s t : State} (pop : txPop s = .next t) : t.block.phase ≠ .fault := by
  obtain ⟨tx, position, rfl⟩ := txPop_next pop
  by_cases last : s.block.txIdx.toNat = 5
  · simp [advanceFrame_last last]
  · simp [advanceFrame_before (show s.block.txIdx.toNat < 5 by omega), tx]

theorem rxByte_phase_ne_fault {k : Byte} {s t : State} (notFault : s.block.phase ≠ .fault)
    (byte : rxByte k s = .next t) : t.block.phase ≠ .fault := by
  obtain ⟨_, rfl⟩ | ⟨_, _, capture⟩ := rxByte_next byte
  · exact notFault
  · obtain ⟨_, rfl⟩ | ⟨_, r, _, rfl⟩ := afterCapture_next capture
    · exact notFault
    · simp

theorem runResult_phase_ne_fault {g : ResultWord} {s t : State} (notFault : s.block.phase ≠ .fault)
    (result : runResult g s = .next t) : t.block.phase ≠ .fault := by
  rw [runResult_eq] at result
  exact rxSeq_keeps (P := fun s => s.block.phase ≠ .fault) (fun _ _ _ => rxByte_phase_ne_fault) notFault result

/-- Settles O22: the cases of `HostFault` cover each host word once, each is its word's step, and of the other agents the
TX side opens the capture at most, a response ends in DONE at most, and RESET ends in IDLE. -/
theorem hostWordFaultPriority : Obligations.HostWordFaultPriority := by
  refine ⟨fun s w notFault => ?hostWord, fun s w o o' => hostFault_unique, fun s t x notFault agent run => ?others,
    rfl, rfl, rfl, rfl, rfl, rfl⟩
  case hostWord =>
    obtain ⟨o, fault⟩ := hostFault_exists notFault w
    have reports := reports_of_hostFault notFault fault
    refine ⟨o, fault, ?fault, ?faultless⟩
    case fault =>
      rintro code rfl
      exact reports
    case faultless =>
      rintro rfl
      exact reports
  case others =>
    obtain rfl | ⟨k, rfl⟩ | ⟨g, rfl⟩ | rfl := agent
    · exact txPop_phase_ne_fault run
    · exact rxByte_phase_ne_fault notFault run
    · exact runResult_phase_ne_fault notFault run
    · cases run
      simp

end Sys2Proof.Machine

/-! FAULT is left by RESET alone (60_exceptions.md R212, 70_reset_and_hazards.md R230): there the host has no step, TXPOP
has none, and response bytes are dropped. RESET has a step in every phase, and its block is `Block.reset` (10_state.md
R37). -/

namespace Sys2Proof.Machine

/-! ### Steps in FAULT -/

/-- A request's OUT6 form has no step in FAULT: with the markers it is an ENCODE, and without them it is no request. -/
theorem runRequest_ne_next_of_fault {s : State} (inFault : s.block.phase = .fault) (f : FrameWord) (t : State) :
    runRequest f s ≠ .next t := by
  intro run
  by_cases markers : frameMarkersOk f = true
  · rw [runRequest_of_markers markers] at run
    exact (hostOp_next run).1 inFault
  · rw [runRequest_without_markers markers] at run
    cases run

/-- In FAULT a step that is not RESET changes nothing at all. -/
theorem runInput_of_fault_next {x : Input} {s t : State} (inFault : s.block.phase = .fault) (not_reset : x ≠ .reset)
    (run : runInput x s = .next t) : t = s := by
  have notTx : s.block.phase ≠ .tx := by simp [inFault]
  have notRx : s.block.phase ≠ .rx := by simp [inFault]
  cases x with
  | hostWord w => cases (runHostWord_of_fault inFault w).symm.trans run
  | hostRequest f => exact absurd run (runRequest_ne_next_of_fault inFault f t)
  | txPop => cases (txPop_of_ne notTx).symm.trans run
  | rxByte k =>
    cases (rxByte_of_ne notRx).symm.trans run
    rfl
  | rxResult g =>
    cases ((runResult_eq g s).trans (rxSeq_of_ne notRx)).symm.trans run
    rfl
  | reset => exact absurd rfl not_reset

/-! ### RESET -/

theorem runInput_reset (s : State) : runInput .reset s = .next (resetBlock s) := rfl

theorem enabled_reset (p : Phase) : Input.reset.enabled p = true := rfl

theorem status_reset : Block.reset.status = 0x00000000#32 := by decide

@[simp] theorem readStatus_resetBlock (s : State) : readStatus (resetBlock s) = 0x00000000#32 := status_reset

/-- Settles O37: in FAULT every other step keeps the whole state, and RESET's step is `resetBlock` in every phase. -/
theorem resetRestoresTheBlock : Obligations.ResetRestoresTheBlock := by
  refine ⟨fun s t x inFault not_reset run => ?otherStep,
    fun s => ⟨enabled_reset s.block.phase, resetBlock s, runInput_reset s, ?registers⟩⟩
  case otherStep =>
    rw [runInput_of_fault_next inFault not_reset run]
    exact inFault
  case registers => simp

end Sys2Proof.Machine

/-! Each format has one word for each of its rows (30_encoding.md R70 to R86). Decoding takes a word apart into its
fields, and a word is put together again from them; so decoding undoes encoding, and what decodes is an encoding. -/

namespace Sys2Proof.Machine

open Sys2Proof.Claims

/-! ### The request types under TYPE_CODE -/

theorem mem_all (n : ReqName) : n ∈ ReqName.all := by
  cases n <;> decide

/-- Under an allowed TYPE_CODE a type byte names the one request type it is the code of (R74). -/
theorem nameOf_code {p : Params} (valid : p.Valid) (n : ReqName) : p.nameOf (p.code n) = some n := by
  obtain ⟨_, _, nodup⟩ := valid
  unfold Params.nameOf
  cases found : ReqName.all.find? (fun m => p.code m == p.code n) with
  | none => exact absurd (beq_self_eq_true _) (List.find?_eq_none.1 found n (mem_all n))
  | some m =>
    have same_code : p.code m = p.code n := by simpa using List.find?_some found
    rw [List.inj_on_of_nodup_map nodup (mem_all m) (mem_all n) same_code]

theorem code_of_nameOf {p : Params} {t : Byte} {n : ReqName} (named : p.nameOf t = some n) : p.code n = t := by
  simpa using List.find?_some named

/-- A request that decodes is the row of the name its type byte is the code of. -/
theorem decodeRequest_eq_some {p : Params} {t a b : Byte} {i : Instr} (decoded : decodeRequest p t a b = some i) :
    ∃ n, p.code n = t ∧ Instr.ofRequest n a b = some i := by
  obtain ⟨n, named, row⟩ := Option.bind_eq_some_iff.1 decoded
  exact ⟨n, code_of_nameOf named, row⟩

/-- The ten queries' rows all have the one form R76 gives them. -/
theorem ofRequest_query {n : ReqName} (query : n ∈ ReqName.queries) {a b : Byte} {i : Instr}
    (row : Instr.ofRequest n a b = some i) : a = 0#8 ∧ b = 0#8 := by
  by_contra payload
  have none_row : Instr.ofRequest n a b = none := by
    cases n with
    | toggleLoad | setCurrent | setCutoffVoltage | setTimeout | resetCounters => exact absurd query (by decide)
    | _ => exact if_neg payload
  rw [none_row] at row
  cases row

/-- A request row is encoded as the frame of its name's type byte and its payload (R70, R74). -/
theorem encode_ofRequest {n : ReqName} {a b : Byte} {i : Instr} (row : Instr.ofRequest n a b = some i) (p : Params) :
    encode p i = .out6 (frameWord (p.code n) a b) ∧ i.wellFormed = true := by
  by_cases query : n ∈ ReqName.queries
  · obtain ⟨rfl, rfl⟩ := ofRequest_query query row
    cases n with
    | toggleLoad | setCurrent | setCutoffVoltage | setTimeout | resetCounters => exact absurd query (by decide)
    | _ => cases row; exact ⟨rfl, rfl⟩
  · cases n with
    | toggleLoad | setCurrent | setCutoffVoltage | setTimeout | resetCounters => cases row; exact ⟨rfl, rfl⟩
    | _ => exact absurd (by decide) query

/-! ### Outbound frames -/

theorem decodeFrame_of_markers {p : Params} {f : FrameWord} {i : Instr} (markers : frameMarkersOk f = true)
    (decoded : decodeRequest p (frameType f) (frameP0 f) (frameP1 f) = some i) : decodeFrame p f = .ok i := by
  rw [decodeFrame, if_pos markers, decoded]

/-- A frame that decodes has its markers, and its type byte and payload stand for the row. -/
theorem decodeFrame_eq_ok {p : Params} {f : FrameWord} {i : Instr} (decoded : decodeFrame p f = .ok i) :
    frameMarkersOk f = true ∧ decodeRequest p (frameType f) (frameP0 f) (frameP1 f) = some i := by
  unfold decodeFrame at decoded
  split at decoded
  case isFalse => cases decoded
  case isTrue markers =>
    split at decoded
    · cases decoded
      exact ⟨markers, ‹_›⟩
    · cases decoded

/-- The frame of a request row decodes to it, under every allowed TYPE_CODE. -/
theorem decode_encode_request {p : Params} (valid : p.Valid) {n : ReqName} {a b : Byte} {i : Instr}
    (row : Instr.ofRequest n a b = some i) : decode p (encode p i) = .ok i := by
  rw [(encode_ofRequest row p).1]
  refine decodeFrame_of_markers (frameMarkersOk_frameWord _ _ _) ?_
  rw [frameType_frameWord, frameP0_frameWord, frameP1_frameWord, decodeRequest, nameOf_code valid, Option.bind_some,
    row]

theorem frameMarkersOk_iff (f : FrameWord) : frameMarkersOk f = true ↔
    f.extractLsb' 40 8 = Config.txH0 ∧ f.extractLsb' 32 8 = Config.txH1 ∧ f.extractLsb' 0 8 = Config.txT0 := by
  simp [frameMarkersOk, and_assoc]

theorem frameBytes_append (f : FrameWord) : f.extractLsb' 40 8 ++
    (f.extractLsb' 32 8 ++ (frameType f ++ (frameP0 f ++ (frameP1 f ++ f.extractLsb' 0 8)))) = f := by
  rw [frameType, frameP0, frameP1,
    BitVec.extractLsb'_append_extractLsb'_eq_extractLsb' (Nat.zero_add 8).symm,
    BitVec.extractLsb'_append_extractLsb'_eq_extractLsb' (Nat.zero_add _).symm,
    BitVec.extractLsb'_append_extractLsb'_eq_extractLsb' (Nat.zero_add _).symm,
    BitVec.extractLsb'_append_extractLsb'_eq_extractLsb' (Nat.zero_add _).symm,
    BitVec.extractLsb'_append_extractLsb'_eq_extractLsb' (Nat.zero_add _).symm]
  exact BitVec.extractLsb'_eq_self

/-- A frame number with its markers right is that of its own type byte and payload (R71). -/
theorem frameWord_fields {f : FrameWord} (markers : frameMarkersOk f = true) :
    frameWord (frameType f) (frameP0 f) (frameP1 f) = f := by
  obtain ⟨header0, header1, trailer⟩ := (frameMarkersOk_iff f).1 markers
  obtain ⟨header0', header1', trailer'⟩ :=
    (frameMarkersOk_iff _).1 (frameMarkersOk_frameWord (frameType f) (frameP0 f) (frameP1 f))
  rw [← frameBytes_append (frameWord _ _ _), header0', header1', trailer', frameType_frameWord, frameP0_frameWord,
    frameP1_frameWord, ← header0, ← header1, ← trailer, frameBytes_append]

theorem encode_of_decodeFrame {p : Params} {f : FrameWord} {i : Instr} (decoded : decodeFrame p f = .ok i) :
    encode p i = .out6 f ∧ i.wellFormed = true := by
  obtain ⟨markers, request⟩ := decodeFrame_eq_ok decoded
  obtain ⟨n, code, row⟩ := decodeRequest_eq_some request
  have encoded := encode_ofRequest row p
  rwa [code, frameWord_fields markers] at encoded

/-! ### Host words -/

theorem decodeHostWord_fmtfWord (h : BitVec 15) : decodeHostWord (fmtfWord h) = .ok (.fmtf h) := by
  simp [decodeHostWord, hopField_fmtfWord, reservedField_fmtfWord, fmtfZeroField_fmtfWord, hundredthsField_fmtfWord]

theorem decodeHostWord_fmtdWord (sec : BitVec 24) : decodeHostWord (fmtdWord sec) = .ok (.fmtd sec) := by
  simp [decodeHostWord, hopField_fmtdWord, reservedField_fmtdWord, operandField_fmtdWord]

theorem decodeHostWord_hop101 {w : HostWord} (hop : hopField w = 5) :
    decodeHostWord w = .ok (.reserved101 (restField w)) := by
  simp [decodeHostWord, hop]

theorem decodeHostWord_hop110 {w : HostWord} (hop : hopField w = 6) :
    decodeHostWord w = .ok (.reserved110 (restField w)) := by
  simp [decodeHostWord, hop]

theorem decodeHostWord_hop111 {w : HostWord} (hop : hopField w = 7) :
    decodeHostWord w = .ok (.reserved111 (restField w)) := by
  simp [decodeHostWord, hop]

theorem decodeHostWord_reserved101 (rest : BitVec 29) :
    decodeHostWord (reservedWord 0b101 rest) = .ok (.reserved101 rest) := by
  rw [decodeHostWord_hop101 (hopField_reservedWord _ _), restField_reservedWord]

theorem decodeHostWord_reserved110 (rest : BitVec 29) :
    decodeHostWord (reservedWord 0b110 rest) = .ok (.reserved110 rest) := by
  rw [decodeHostWord_hop110 (hopField_reservedWord _ _), restField_reservedWord]

theorem decodeHostWord_reserved111 (rest : BitVec 29) :
    decodeHostWord (reservedWord 0b111 rest) = .ok (.reserved111 rest) := by
  rw [decodeHostWord_hop111 (hopField_reservedWord _ _), restField_reservedWord]

/-- A word of HOP 100 that is not malformed is FMTD's word of its own operand (R84). -/
theorem fmtdWord_fields {w : HostWord} (hop : hopField w = 4) (formed : ¬ Malformed w) :
    fmtdWord (operandField w) = w := by
  rw [malformed_fmtd_iff hop, not_not] at formed
  apply hostWord_eq_of_fields
  · rw [hopField_fmtdWord, hop]
  · rw [← reservedField_append_operandField, ← reservedField_append_operandField, reservedField_fmtdWord,
      operandField_fmtdWord, formed]
    rfl

theorem abortWord_eq {w : HostWord} (hop : hopField w = 2) (formed : ¬ Malformed w) : 0x40000000#32 = w := by
  rw [malformed_abort_iff hop, not_not] at formed
  exact hostWord_eq_of_fields hop.symm formed.symm

/-- A word of a reserved HOP is the encoding of that HOP's row, with any lower bits (R81, R86). -/
theorem encode_of_reservedHop {w : HostWord} (reservedHop : 5 ≤ (hopField w).toNat) (p : Params) :
    ∃ i, decodeHostWord w = .ok i ∧ encode p i = .hw32 w ∧ i.wellFormed = true := by
  have word := reservedWord_fields w
  obtain hop | hop | hop := reservedHop_cases _ reservedHop <;> rw [hop] at word
  · exact ⟨_, decodeHostWord_hop101 hop, congrArg TableWord.hw32 word, rfl⟩
  · exact ⟨_, decodeHostWord_hop110 hop, congrArg TableWord.hw32 word, rfl⟩
  · exact ⟨_, decodeHostWord_hop111 hop, congrArg TableWord.hw32 word, rfl⟩

/-- A word that is not malformed is the encoding of its HOP's row. -/
theorem encode_of_formed {w : HostWord} (formed : ¬ Malformed w) (p : Params) :
    ∃ i, decodeHostWord w = .ok i ∧ encode p i = .hw32 w ∧ i.wellFormed = true := by
  obtain nop | encode | abort | fmtf | fmtd := definedHop_cases _ (hopField_lt_of_formed formed)
  · have zero : w = 0#32 := not_not.1 (mt (malformed_nop_iff nop).2 formed)
    exact ⟨_, decodeHostWord_nop nop formed, congrArg TableWord.hw32 zero.symm, rfl⟩
  · have reserved : reservedField w = 0#5 := not_not.1 (mt (malformed_encode_iff encode).2 formed)
    exact ⟨_, decodeHostWord_encode encode formed, congrArg TableWord.hw32 (encodeWord_fields encode reserved), rfl⟩
  · exact ⟨_, decodeHostWord_abort abort formed, congrArg TableWord.hw32 (abortWord_eq abort formed), rfl⟩
  · exact ⟨_, decodeHostWord_fmtf fmtf formed, congrArg TableWord.hw32 (fmtfWord_fields fmtf formed), rfl⟩
  · exact ⟨_, decodeHostWord_fmtd fmtd formed, congrArg TableWord.hw32 (fmtdWord_fields fmtd formed), rfl⟩

theorem encode_of_decodeHostWord {p : Params} {w : HostWord} {i : Instr} (decoded : decodeHostWord w = .ok i) :
    encode p i = .hw32 w ∧ i.wellFormed = true := by
  have row : ∃ j, decodeHostWord w = .ok j ∧ encode p j = .hw32 w ∧ j.wellFormed = true := by
    by_cases malformed : Malformed w
    · by_cases defined : (hopField w).toNat < 5
      · rw [decodeHostWord_malformed malformed defined] at decoded
        cases decoded
      · exact encode_of_reservedHop (not_lt.1 defined) p
    · exact encode_of_formed malformed p
  obtain ⟨j, decoded', encoded⟩ := row
  cases decoded.symm.trans decoded'
  exact encoded

/-! ### Responses -/

theorem decodeAck_of_ne {k : Byte} (other : k ≠ Config.ackOkByte) : decodeAck k = .ackErr k := if_neg other

theorem encode_decodeAck (p : Params) (k : Byte) :
    encode p (decodeAck k) = .ack1 k ∧ (decodeAck k).wellFormed = true := by
  by_cases ok : k = Config.ackOkByte
  · rw [ok]
    exact ⟨rfl, rfl⟩
  · rw [decodeAck_of_ne ok]
    exact ⟨rfl, bne_iff_ne.2 ok⟩

theorem resultFields_append (g : ResultWord) : g.extractLsb' 40 16 ++
    (g.extractLsb' 32 8 ++ (g.extractLsb' 24 8 ++ (g.extractLsb' 16 8 ++ g.extractLsb' 0 16))) = g := by
  rw [BitVec.extractLsb'_append_extractLsb'_eq_extractLsb' (Nat.zero_add 16).symm,
    BitVec.extractLsb'_append_extractLsb'_eq_extractLsb' (Nat.zero_add _).symm,
    BitVec.extractLsb'_append_extractLsb'_eq_extractLsb' (Nat.zero_add _).symm,
    BitVec.extractLsb'_append_extractLsb'_eq_extractLsb' (Nat.zero_add _).symm]
  exact BitVec.extractLsb'_eq_self

theorem and_endsMask (headers trailers : BitVec 16) (v0 v1 v2 : Byte) :
    (headers ++ (v0 ++ (v1 ++ (v2 ++ trailers)))) &&&
      (BitVec.allOnes 16 ++ (0#8 ++ (0#8 ++ (0#8 ++ BitVec.allOnes 16)))) =
    headers ++ (0#8 ++ (0#8 ++ (0#8 ++ trailers))) := by
  simp only [BitVec.and_append, BitVec.and_zero, BitVec.and_allOnes]

/-- The mask of QRES7 covers the two marker bytes at each end and no value byte (R78). -/
theorem resultMask_eq_iff (g : ResultWord) : g &&& 0xFFFF000000FFFF#56 = 0xCACB000000CECF#56 ↔
    g.extractLsb' 40 16 = 0xCACB#16 ∧ g.extractLsb' 0 16 = 0xCECF#16 := by
  constructor
  · intro masked
    have headers := congrArg (BitVec.extractLsb' 40 16) masked
    have trailers := congrArg (BitVec.extractLsb' 0 16) masked
    have mask : BitVec.extractLsb' 40 16 0xFFFF000000FFFF#56 = BitVec.allOnes 16 ∧
      BitVec.extractLsb' 0 16 0xFFFF000000FFFF#56 = BitVec.allOnes 16 := by decide
    rw [BitVec.extractLsb'_and, mask.1, BitVec.and_allOnes] at headers
    rw [BitVec.extractLsb'_and, mask.2, BitVec.and_allOnes] at trailers
    exact ⟨headers, trailers⟩
  · rintro ⟨headers, trailers⟩
    have mask : 0xFFFF000000FFFF#56 = BitVec.allOnes 16 ++ (0#8 ++ (0#8 ++ (0#8 ++ BitVec.allOnes 16))) := by decide
    rw [← resultFields_append g, headers, trailers, mask]
    exact (and_endsMask _ _ _ _ _).trans (by decide)

/-- A slice of a query result's number is the OR of the same slices of its markers and its placed value bytes. -/
theorem extractLsb'_resultWord (v0 v1 v2 : Byte) (start len : Nat) : (resultWord v0 v1 v2).extractLsb' start len =
    (0xCACB000000CECF#56).extractLsb' start len ||| (v0.setWidth 56 <<< 32).extractLsb' start len |||
    (v1.setWidth 56 <<< 24).extractLsb' start len ||| (v2.setWidth 56 <<< 16).extractLsb' start len := by
  simp only [resultWord, BitVec.extractLsb'_or]

theorem resultWord_headers (v0 v1 v2 : Byte) : (resultWord v0 v1 v2).extractLsb' 40 16 = 0xCACB#16 := by
  simp (disch := omega) only [extractLsb'_resultWord, extractLsb'_setWidth_shiftLeft_apart, BitVec.or_zero]
  decide

theorem resultWord_v0 (v0 v1 v2 : Byte) : (resultWord v0 v1 v2).extractLsb' 32 8 = v0 := by
  simp (disch := omega) [extractLsb'_resultWord, extractLsb'_setWidth_shiftLeft_apart,
    extractLsb'_setWidth_shiftLeft_same]

theorem resultWord_v1 (v0 v1 v2 : Byte) : (resultWord v0 v1 v2).extractLsb' 24 8 = v1 := by
  simp (disch := omega) [extractLsb'_resultWord, extractLsb'_setWidth_shiftLeft_apart,
    extractLsb'_setWidth_shiftLeft_same]

theorem resultWord_v2 (v0 v1 v2 : Byte) : (resultWord v0 v1 v2).extractLsb' 16 8 = v2 := by
  simp (disch := omega) [extractLsb'_resultWord, extractLsb'_setWidth_shiftLeft_apart,
    extractLsb'_setWidth_shiftLeft_same]

theorem resultWord_trailers (v0 v1 v2 : Byte) : (resultWord v0 v1 v2).extractLsb' 0 16 = 0xCECF#16 := by
  simp (disch := omega) only [extractLsb'_resultWord, extractLsb'_setWidth_shiftLeft_apart, BitVec.or_zero]
  decide

theorem decodeResult_resultWord (v0 v1 v2 : Byte) :
    decodeResult (resultWord v0 v1 v2) = .ok (.queryResult v0 v1 v2) := by
  rw [decodeResult, if_pos ((resultMask_eq_iff _).2 ⟨resultWord_headers v0 v1 v2, resultWord_trailers v0 v1 v2⟩),
    resultWord_v0, resultWord_v1, resultWord_v2]

/-- A number with its markers right is the query result of its own value bytes (R78). -/
theorem resultWord_fields {g : ResultWord} (headers : g.extractLsb' 40 16 = 0xCACB#16)
    (trailers : g.extractLsb' 0 16 = 0xCECF#16) :
    resultWord (g.extractLsb' 32 8) (g.extractLsb' 24 8) (g.extractLsb' 16 8) = g := by
  rw [← resultFields_append (resultWord _ _ _), resultWord_headers, resultWord_v0, resultWord_v1, resultWord_v2,
    resultWord_trailers, ← headers, ← trailers, resultFields_append]

theorem encode_of_decodeResult {p : Params} {g : ResultWord} {i : Instr} (decoded : decodeResult g = .ok i) :
    encode p i = .qres7 g ∧ i.wellFormed = true := by
  unfold decodeResult at decoded
  split at decoded
  case isTrue markers =>
    obtain ⟨headers, trailers⟩ := (resultMask_eq_iff g).1 markers
    cases decoded
    exact ⟨congrArg TableWord.qres7 (resultWord_fields headers trailers), rfl⟩
  case isFalse => cases decoded

/-! ### The four formats together -/

/-- Settles O1: each row's word is taken apart into the row's own operands. TYPE_CODE is one to one, so a request's type
byte gives back its name. -/
theorem decodeEncodeRoundTrip : Obligations.DecodeEncodeRoundTrip := by
  intro p valid i formed
  cases i with
  | toggleLoad a b => exact decode_encode_request valid (n := .toggleLoad) (a := a) (b := b) rfl
  | setCurrent a b => exact decode_encode_request valid (n := .setCurrent) (a := a) (b := b) rfl
  | setCutoffVoltage a b => exact decode_encode_request valid (n := .setCutoffVoltage) (a := a) (b := b) rfl
  | setTimeout a b => exact decode_encode_request valid (n := .setTimeout) (a := a) (b := b) rfl
  | resetCounters a b => exact decode_encode_request valid (n := .resetCounters) (a := a) (b := b) rfl
  | loadEnabled => exact decode_encode_request valid (n := .loadEnabled) (a := 0) (b := 0) rfl
  | voltageReading => exact decode_encode_request valid (n := .voltageReading) (a := 0) (b := 0) rfl
  | currentReading => exact decode_encode_request valid (n := .currentReading) (a := 0) (b := 0) rfl
  | elapsedTime => exact decode_encode_request valid (n := .elapsedTime) (a := 0) (b := 0) rfl
  | capacityMilliAmpHours => exact decode_encode_request valid (n := .capacityMilliAmpHours) (a := 0) (b := 0) rfl
  | capacityMilliWattHours => exact decode_encode_request valid (n := .capacityMilliWattHours) (a := 0) (b := 0) rfl
  | mosfetTemperature => exact decode_encode_request valid (n := .mosfetTemperature) (a := 0) (b := 0) rfl
  | currentSetting => exact decode_encode_request valid (n := .currentSetting) (a := 0) (b := 0) rfl
  | cutoffVoltageSetting => exact decode_encode_request valid (n := .cutoffVoltageSetting) (a := 0) (b := 0) rfl
  | timerSetting => exact decode_encode_request valid (n := .timerSetting) (a := 0) (b := 0) rfl
  | nop | abort | ackOk => rfl
  | encode t a b => exact decodeHostWord_encodeWord t a b
  | fmtf h => exact decodeHostWord_fmtfWord h
  | fmtd sec => exact decodeHostWord_fmtdWord sec
  | reserved101 rest => exact decodeHostWord_reserved101 rest
  | reserved110 rest => exact decodeHostWord_reserved110 rest
  | reserved111 rest => exact decodeHostWord_reserved111 rest
  | ackErr raw => exact congrArg Except.ok (decodeAck_of_ne (bne_iff_ne.1 formed))
  | queryResult v0 v1 v2 => exact decodeResult_resultWord v0 v1 v2

/-- Settles O2: what decodes has every bit its row fixes at the row's value, and the other bits are the operands. -/
theorem decodedWordEncodesBack : Obligations.DecodedWordEncodesBack := by
  intro p tw i decoded
  cases tw with
  | out6 f => exact encode_of_decodeFrame decoded
  | hw32 w => exact encode_of_decodeHostWord decoded
  | ack1 k => cases decoded; exact encode_decodeAck p k
  | qres7 g => exact encode_of_decodeResult decoded

/-- Settles O3: each word's width chooses its format, and its fields are read off. -/
theorem writtenWordsDecode : Obligations.WrittenWordsDecode := by
  refine ⟨?_, ?_, ?_, ?_, ?_, ?_, ?_⟩ <;> decide

end Sys2Proof.Machine

/-! The invariants of the block (10_state.md R38 and the register rules behind it). A step of an agent is a host
operation's effect, a response byte, TXPOP or RESET; each writes a few registers, and the invariants that speak of the
others are kept as they are. -/

namespace Sys2Proof.Machine

open Sys2Proof.Safety Sys2Proof.Claims

/-! ### RESET -/

/-- The reset block (R37): nothing is in flight or held, and no request has been accepted. -/
theorem blockInv_reset : BlockInv Block.reset where
  tx_position := by decide
  rx_position := by decide
  result_iff_done := by decide
  ack_result := by decide
  query_result := by decide
  fault_iff_code := by decide
  no_fault_word := by decide
  request_accepted := by decide
  length_of_class := by decide
  class_of_type := fun accepted => absurd rfl accepted
  query_payload := by decide
  frame_held := fun accepted => absurd rfl accepted
  txIdx_bound := by decide
  rxCnt_bound := by decide
  no_value := by decide
  ack_err_value := by decide
  bool_value := by decide

/-- Settles O38: the power-on state holds the reset block, and the default type codes are in listing order. -/
theorem resetSatisfiesInvariants : Obligations.ResetSatisfiesInvariants :=
  ⟨blockInv_reset, fun accepted => absurd rfl accepted, by decide, status_reset⟩

/-! ### Host operations -/

theorem blockInv_raiseFault {code : FCode} {w : HostWord} {s : State} (inv : BlockInv s.block) (raised : code ≠ .none) :
    BlockInv (raiseFault code w s).block :=
  { inv with
    tx_position := by simp
    rx_position := by simp
    result_iff_done := by simp
    ack_result := by simp
    query_result := by simp
    fault_iff_code := by simp [raised]
    no_fault_word := fun none => absurd none raised
    request_accepted := by simp
    no_value := fun _ => rfl
    ack_err_value := by simp
    bool_value := by simp }

theorem responseLength_ne_zero (c : ReqClass) : responseLength c ≠ 0 := by
  cases c <;> decide

/-- A request is accepted outside FAULT only, with the class of its type and a query's payload zero (R132). -/
theorem blockInv_acceptRequest {c : ReqClass} {ty a b : Byte} {s : State} (inv : BlockInv s.block)
    (notFault : s.block.phase ≠ .fault) (class_eq : classMatches c ty) (payload : c = .qry → a = 0 ∧ b = 0) :
    BlockInv (acceptRequest c ty a b s).block :=
  { inv with
    tx_position := by simp
    rx_position := by simp
    result_iff_done := by simp
    ack_result := by simp
    query_result := by simp
    fault_iff_code := by simpa using (not_iff_not.2 inv.fault_iff_code).1 notFault
    request_accepted := fun _ => responseLength_ne_zero c
    length_of_class := fun _ => by cases c <;> rfl
    class_of_type := fun _ => class_eq
    query_payload := fun _ => payload
    frame_held := fun _ => rfl
    txIdx_bound := by simp
    rxCnt_bound := by simp
    no_value := fun _ => rfl
    ack_err_value := by simp
    bool_value := by simp }

theorem blockInv_aborted {s : State} (inv : BlockInv s.block) (inFlight : InFlight s) :
    BlockInv { s.block with resKind := .aborted, resVal := 0, phase := .done } :=
  { inv with
    tx_position := by simp
    rx_position := by simp
    result_iff_done := by simp
    ack_result := by simp
    query_result := by simp
    fault_iff_code := by simpa using (not_iff_not.2 inv.fault_iff_code).1 (ne_fault_of_inFlight inFlight)
    request_accepted := fun _ => inv.request_accepted (inFlight.imp_right .inl)
    no_value := fun _ => rfl
    ack_err_value := by simp
    bool_value := by simp }

theorem ne_fault_of_mayRequest {p : Phase} (may : mayRequest p = true) : p ≠ .fault := by
  rintro rfl
  cases may

theorem blockInv_hostEffect {s t : State} (inv : BlockInv s.block) (effect : HostEffect s t) : BlockInv t.block := by
  obtain rfl | ⟨code, w, raised, rfl⟩ | ⟨ty, a, b, may, command, rfl⟩ | ⟨ty, may, query, rfl⟩ | ⟨inFlight, rfl⟩ |
    ⟨p0, p1, rfl⟩ := effect
  · exact inv
  · exact blockInv_raiseFault inv raised
  · exact blockInv_acceptRequest inv (ne_fault_of_mayRequest may) command (by simp)
  · exact blockInv_acceptRequest inv (ne_fault_of_mayRequest may) query (fun _ => ⟨rfl, rfl⟩)
  · exact blockInv_aborted inv inFlight
  · exact { inv with }

/-! ### TXPOP -/

theorem resKind_eq_none {b : Block} (inv : BlockInv b) (notDone : b.phase ≠ .done) : b.resKind = .none :=
  not_not.1 (mt inv.result_iff_done.1 notDone)

theorem blockInv_captureOpened {b : Block} (inv : BlockInv b) (tx : b.phase = .tx) :
    BlockInv { b with txIdx := 6, rxCnt := 0, phase := .rx } := by
  have accepted : b.expLen ≠ 0 := inv.request_accepted (.inl tx)
  have no_result : b.resKind = .none := resKind_eq_none inv (by simp [tx])
  exact
    { inv with
      tx_position := by simp
      rx_position := fun _ => ⟨rfl, Nat.pos_of_ne_zero fun zero => accepted (BitVec.eq_of_toNat_eq zero)⟩
      result_iff_done := by simp [no_result]
      ack_result := by simp [no_result]
      query_result := by simp [no_result]
      fault_iff_code := by simpa [tx] using inv.fault_iff_code
      request_accepted := fun _ => accepted
      txIdx_bound := ⟨le_rfl, fun none => absurd none accepted⟩
      rxCnt_bound := Nat.zero_le _ }

theorem blockInv_advanceFrame {b : Block} (inv : BlockInv b) (tx : b.phase = .tx) : BlockInv (advanceFrame b) := by
  obtain ⟨position, nothing_captured⟩ := inv.tx_position tx
  have accepted : b.expLen ≠ 0 := inv.request_accepted (.inl tx)
  by_cases last : b.txIdx.toNat = 5
  · rw [advanceFrame_last last]
    exact blockInv_captureOpened inv tx
  · rw [advanceFrame_before (by omega)]
    have next : (b.txIdx + 1).toNat = b.txIdx.toNat + 1 := toNat_add_one_of_lt (by omega)
    exact
      { inv with
        tx_position := fun _ => ⟨by simp only [next]; omega, nothing_captured⟩
        rx_position := by simp [tx]
        txIdx_bound := ⟨by simp only [next]; omega, fun none => absurd none accepted⟩ }

theorem blockInv_txPop {s t : State} (inv : BlockInv s.block) (pop : txPop s = .next t) : BlockInv t.block := by
  obtain ⟨tx, _, rfl⟩ := txPop_next pop
  exact blockInv_advanceFrame inv tx

/-! ### Response bytes -/

/-- What the result registers hold after a response of class `c` is decoded (R30, R38, R155). -/
structure ResultOfClass (c : ReqClass) (r : Result) : Prop where
  held : r.kind ≠ .none
  ack : r.kind = .ackOk ∨ r.kind = .ackErr → c = .cmd
  query : r.kind = .bool ∨ r.kind = .u24 ∨ r.kind = .dur ∨ r.kind = .invalidResponse → c = .qry
  no_value : r.kind = .none ∨ r.kind = .ackOk ∨ r.kind = .invalidResponse ∨ r.kind = .aborted → r.val = 0
  ack_err_value : r.kind = .ackErr → r.val.toNat < 256 ∧ r.val ≠ 0x6F
  bool_value : r.kind = .bool → r.val = 0 ∨ r.val = 1

theorem resultOfClass_decodeCommand (k : Byte) : ResultOfClass .cmd (decodeCommand k) := by
  by_cases ok : k = 0x6F
  · rw [ok]
    constructor <;> decide
  · rw [decodeCommand_of_ne ok]
    have byte_kept : (k.setWidth 24).toNat = k.toNat := BitVec.toNat_setWidth_of_le (by decide)
    have other : (Result.ackErr k).val ≠ 0x6F := by
      intro same
      have number : (k.setWidth 24).toNat = 0x6F := congrArg BitVec.toNat same
      exact ok (BitVec.eq_of_toNat_eq (byte_kept.symm.trans number))
    exact
      { held := by simp [Result.kind]
        ack := fun _ => rfl
        query := by simp [Result.kind]
        no_value := by simp [Result.kind]
        ack_err_value := fun _ => ⟨byte_kept.trans_lt k.isLt, other⟩
        bool_value := by simp [Result.kind] }

theorem resultOfClass_invalidResponse : ResultOfClass .qry .invalidResponse := by
  constructor <;> decide

theorem resultOfClass_parseValue (kind : ValueKind) (v0 v1 v2 : Byte) :
    ResultOfClass .qry (parseValue kind v0 v1 v2) := by
  cases kind with
  | bool => cases value : parseBool v0 v1 v2 <;> constructor <;> simp [parseValue, Result.kind, Result.val, value]
  | u24 => constructor <;> simp [parseValue, Result.kind]
  | dur => constructor <;> simp [parseValue, Result.kind]

theorem resultOfClass_decodeQuery (kind : ValueKind) (r0 r1 r2 r3 r4 r5 r6 : Byte) :
    ResultOfClass .qry (decodeQuery kind r0 r1 r2 r3 r4 r5 r6) := by
  unfold decodeQuery
  split
  · exact resultOfClass_parseValue kind r2 r3 r4
  · exact resultOfClass_invalidResponse

/-- A decoded response is a result of the request's class (R154 to R157). -/
theorem resultOfClass_decodeResponse {p : Params} {c : ReqClass} {t : Byte} {ks : List Byte} {r : Result}
    (decoded : decodeResponse p c t ks = some r) : ResultOfClass c r := by
  unfold decodeResponse at decoded
  split at decoded
  · cases decoded
    exact resultOfClass_decodeCommand _
  · obtain ⟨kind, _, rfl⟩ := Option.map_eq_some_iff.1 decoded
    exact resultOfClass_decodeQuery kind _ _ _ _ _ _ _
  · cases decoded

theorem blockInv_capturing {b : Block} (inv : BlockInv b) (rx : b.phase = .rx) (buf : Vector Byte 7)
    (room : b.rxCnt.toNat < 7) (more : b.rxCnt + 1 ≠ b.expLen) :
    BlockInv { b with rxBuf := buf, rxCnt := b.rxCnt + 1 } := by
  obtain ⟨frame_out, short⟩ := inv.rx_position rx
  have no_result : b.resKind = .none := resKind_eq_none inv (by simp [rx])
  have next : (b.rxCnt + 1).toNat = b.rxCnt.toNat + 1 := toNat_add_one_of_lt room
  have not_last : b.rxCnt.toNat + 1 ≠ b.expLen.toNat := fun last => more (BitVec.eq_of_toNat_eq (next.trans last))
  have still_short : (b.rxCnt + 1).toNat < b.expLen.toNat := by omega
  exact
    { inv with
      tx_position := by simp [rx]
      rx_position := fun _ => ⟨frame_out, still_short⟩
      ack_result := by simp [no_result]
      query_result := by simp [no_result]
      rxCnt_bound := still_short.le }

theorem blockInv_captured {b : Block} {r : Result} (inv : BlockInv b) (rx : b.phase = .rx) (buf : Vector Byte 7)
    {count : BitVec 3} (full : count = b.expLen) (result : ResultOfClass b.reqClass r) :
    BlockInv (finishCapture r { b with rxBuf := buf, rxCnt := count }) := by
  subst full
  have accepted : b.expLen ≠ 0 := inv.request_accepted (.inr (.inl rx))
  have length := inv.length_of_class accepted
  exact
    { inv with
      tx_position := by simp
      rx_position := by simp
      result_iff_done := by simp [result.held]
      ack_result := fun ack => ⟨result.ack ack, length.trans (if_pos (result.ack ack))⟩
      query_result := fun query => ⟨result.query query, length.trans (if_neg (by simp [result.query query]))⟩
      fault_iff_code := by simpa [rx] using inv.fault_iff_code
      request_accepted := fun _ => accepted
      rxCnt_bound := le_rfl
      no_value := result.no_value
      ack_err_value := result.ack_err_value
      bool_value := result.bool_value }

theorem blockInv_rxByte {k : Byte} {s t : State} (inv : BlockInv s.block) (byte : rxByte k s = .next t) :
    BlockInv t.block := by
  obtain ⟨_, rfl⟩ | ⟨rx, room, capture⟩ := rxByte_next byte
  · exact inv
  · obtain ⟨more, rfl⟩ | ⟨last, r, decoded, rfl⟩ := afterCapture_next capture
    · exact blockInv_capturing inv rx _ room more
    · exact blockInv_captured inv rx _ last (resultOfClass_decodeResponse decoded)

theorem blockInv_rxSeq {ks : List Byte} {s t : State} (inv : BlockInv s.block) (bytes : rxSeq ks s = .next t) :
    BlockInv t.block :=
  rxSeq_keeps (P := fun u => BlockInv u.block) (fun _ _ _ => blockInv_rxByte) inv bytes

/-! ### The machine's step -/

theorem blockInv_runInput {x : Input} {s t : State} (inv : BlockInv s.block) (run : runInput x s = .next t) :
    BlockInv t.block := by
  obtain ⟨_, effect⟩ | ⟨_, ks, bytes⟩ | ⟨_, ks, bytes⟩ | ⟨_, pop⟩ | ⟨_, rfl⟩ := runInput_next run
  · exact blockInv_hostEffect inv effect
  · exact blockInv_rxSeq inv bytes
  · exact blockInv_rxSeq inv bytes
  · exact blockInv_txPop inv pop
  · exact blockInv_reset

/-- Settles O44: the machine step runs one agent's step, and each of those keeps the invariants. -/
theorem stepKeepsInvariants : Obligations.StepKeepsInvariants := by
  intro s t inv run
  obtain ⟨x, rest, _, _, run⟩ := step_next run
  exact blockInv_runInput (s := consume rest s) inv run

/-! ### What stands outside the block -/

/-- A request row's step is ENCODE's, so it has ENCODE's effect. -/
theorem exec_frame {i : Instr} {s t : State} (run : exec i s = .next t) : t = { s with block := t.block } := by
  cases i with
  | ackOk => exact rxByte_frame run
  | ackErr raw => exact rxByte_frame run
  | queryResult v0 v1 v2 => exact rxSeq_frame run
  | nop => exact (execNop_effect run).frame
  | abort => exact (execAbort_effect run).frame
  | fmtf h => exact (execFmtf_effect run).frame
  | fmtd sec => exact (execFmtd_effect run).frame
  | reserved101 rest => exact (illegalOperation_effect run).frame
  | reserved110 rest => exact (illegalOperation_effect run).frame
  | reserved111 rest => exact (illegalOperation_effect run).frame
  | _ => exact (encodeRequest_effect run).frame

/-- Settles O42: a host row has a host operation's effect, and a response row is response bytes. -/
theorem execTouchesOnlyTheBlock : Obligations.ExecTouchesOnlyTheBlock := fun _ _ _ => exec_frame

/-- Settles O43: TXPOP hands over the byte on offer, and no other step touches what stands outside the block. -/
theorem onlyTxPopEmits : Obligations.OnlyTxPopEmits := by
  intro x s t run
  obtain ⟨host, effect⟩ | ⟨byte, ks, bytes⟩ | ⟨result, ks, bytes⟩ | ⟨rfl, pop⟩ | ⟨rfl, rfl⟩ := runInput_next run
  · have not_pop : x ≠ .txPop := by
      obtain ⟨w, rfl⟩ | ⟨f, rfl⟩ := host <;> simp
    rw [effect.frame]
    exact ⟨rfl, .inr ⟨not_pop, rfl⟩⟩
  · have not_pop : x ≠ .txPop := by
      obtain ⟨k, rfl⟩ := byte
      simp
    rw [rxSeq_frame bytes]
    exact ⟨rfl, .inr ⟨not_pop, rfl⟩⟩
  · have not_pop : x ≠ .txPop := by
      obtain ⟨g, rfl⟩ := result
      simp
    rw [rxSeq_frame bytes]
    exact ⟨rfl, .inr ⟨not_pop, rfl⟩⟩
  · obtain ⟨tx, position, rfl⟩ := txPop_next pop
    exact ⟨rfl, .inl ⟨rfl, _, txOffer_of_tx tx position, rfl⟩⟩
  · exact ⟨rfl, .inr ⟨by simp, rfl⟩⟩

/-! ### The wire -/

/-- Steps that keep the frame, its position and the wire keep what the wire ends with. -/
theorem wireInv_congr {s t : State} (inv : WireInv s) (expLen : t.block.expLen = s.block.expLen)
    (txBuf : t.block.txBuf = s.block.txBuf) (txIdx : t.block.txIdx = s.block.txIdx) (wire : t.wire = s.wire) :
    WireInv t := by
  unfold WireInv
  rwa [expLen, txBuf, txIdx, wire]

theorem wireInv_acceptRequest (c : ReqClass) (ty a b : Byte) (s : State) : WireInv (acceptRequest c ty a b s) :=
  fun _ => ⟨s.wire, by simp⟩

theorem wireInv_hostEffect {s t : State} (inv : WireInv s) (effect : HostEffect s t) : WireInv t := by
  obtain rfl | ⟨code, w, _, rfl⟩ | ⟨ty, a, b, _, _, rfl⟩ | ⟨ty, _, _, rfl⟩ | ⟨_, rfl⟩ | ⟨p0, p1, rfl⟩ := effect
  · exact inv
  · exact wireInv_congr inv rfl rfl rfl rfl
  · exact wireInv_acceptRequest _ _ _ _ _
  · exact wireInv_acceptRequest _ _ _ _ _
  · exact wireInv_congr inv rfl rfl rfl rfl
  · exact wireInv_congr inv rfl rfl rfl rfl

theorem wireInv_rxByte {k : Byte} {s t : State} (inv : WireInv s) (byte : rxByte k s = .next t) : WireInv t := by
  obtain ⟨_, rfl⟩ | ⟨_, _, capture⟩ := rxByte_next byte
  · exact inv
  · obtain ⟨_, rfl⟩ | ⟨_, r, _, rfl⟩ := afterCapture_next capture <;> exact wireInv_congr inv rfl rfl rfl rfl

theorem wireInv_rxSeq {ks : List Byte} {s t : State} (inv : WireInv s) (bytes : rxSeq ks s = .next t) : WireInv t :=
  rxSeq_keeps (fun _ _ _ => wireInv_rxByte) inv bytes

theorem advanceFrame_expLen (b : Block) : (advanceFrame b).expLen = b.expLen := by
  unfold advanceFrame
  split <;> rfl

theorem advanceFrame_txBuf (b : Block) : (advanceFrame b).txBuf = b.txBuf := by
  unfold advanceFrame
  split <;> rfl

theorem advanceFrame_txIdx (b : Block) : (advanceFrame b).txIdx = b.txIdx + 1 := by
  unfold advanceFrame
  split <;> rfl

/-- TXPOP puts the byte TXIDX counts next on the wire. -/
theorem wireInv_txPop {s t : State} (inv : WireInv s) (pop : txPop s = .next t) : WireInv t := by
  obtain ⟨_, position, rfl⟩ := txPop_next pop
  intro accepted
  obtain ⟨before, wire⟩ := inv (by simpa only [advanceFrame_expLen] using accepted)
  refine ⟨before, ?_⟩
  rw [advanceFrame_txBuf, advanceFrame_txIdx, toNat_add_one_of_lt (by omega), List.take_add_one, wire,
    List.append_assoc]
  simp [position]

/-- Settles O45: TXPOP puts on the wire the byte it counts, an accepted request counts none, and no other step touches
the frame, its position or the wire. -/
theorem stepKeepsWirePrefix : Obligations.StepKeepsWirePrefix := by
  intro s t _ inv run
  obtain ⟨x, rest, _, _, run⟩ := step_next run
  have inv : WireInv (consume rest s) := inv
  obtain ⟨_, effect⟩ | ⟨_, ks, bytes⟩ | ⟨_, ks, bytes⟩ | ⟨_, pop⟩ | ⟨_, rfl⟩ := runInput_next run
  · exact wireInv_hostEffect inv effect
  · exact wireInv_rxSeq inv bytes
  · exact wireInv_rxSeq inv bytes
  · exact wireInv_txPop inv pop
  · exact fun accepted => absurd rfl accepted

/-! ### Completion -/

theorem runHostWord_completes {s : State} (notFault : s.block.phase ≠ .fault) (w : HostWord) :
    ∃ t, runHostWord w s = .next t := by
  by_cases malformed : Malformed w
  · exact ⟨_, reports_malformed notFault malformed⟩
  · obtain ⟨t, run, _⟩ := runHostWord_notIllegal malformed notFault
    exact ⟨t, run⟩

theorem txPop_completes {s : State} (inv : BlockInv s.block) (tx : s.block.phase = .tx) : ∃ t, txPop s = .next t :=
  ⟨_, txPop_of_tx tx (inv.tx_position tx).1⟩

theorem rxByte_completes {s : State} (inv : BlockInv s.block) (k : Byte) : ∃ t, rxByte k s = .next t := by
  by_cases rx : s.block.phase = .rx
  · obtain ⟨_, short⟩ := inv.rx_position rx
    obtain ⟨_, before_last, last⟩ := captureStoresAndCompletes s k inv rx
    obtain more | full := Nat.lt_or_eq_of_le (Nat.succ_le_of_lt short)
    · exact ⟨_, before_last more⟩
    · obtain ⟨_, _, byte⟩ := last full
      exact ⟨_, byte⟩
  · exact ⟨s, rxByte_of_ne rx⟩

theorem rxSeq_completes {s : State} (inv : BlockInv s.block) (ks : List Byte) : ∃ t, rxSeq ks s = .next t := by
  induction ks generalizing s with
  | nil => exact ⟨s, rfl⟩
  | cons k ks ih =>
    obtain ⟨m, byte⟩ := rxByte_completes inv k
    rw [rxSeq_cons_next byte]
    exact ih (blockInv_rxByte inv byte)

/-- Settles O46: outside FAULT every host operation completes, and the invariants keep TXIDX inside the frame in TX and
the capture short of its length in RX. -/
theorem enabledStepsComplete : Obligations.EnabledStepsComplete := by
  intro s x rest inv taken markers
  obtain ⟨_, _, _, _, _, enabled⟩ := takeEnabled_eq_some taken
  rw [step_of_taken taken]
  cases x with
  | hostWord w => exact runHostWord_completes (s := consume rest s) (bne_iff_ne.1 enabled) w
  | hostRequest f =>
    have notFault : (consume rest s).block.phase ≠ .fault := bne_iff_ne.1 enabled
    obtain ⟨t, request⟩ := encodeRequest_exists (t := frameType f) (a := frameP0 f) (b := frameP1 f) notFault
    exact ⟨t, (runRequest_of_markers (markers f rfl)).trans request⟩
  | txPop => exact txPop_completes (s := consume rest s) inv ((enabled_txPop_iff _).1 enabled)
  | rxByte k => exact rxByte_completes (s := consume rest s) inv k
  | rxResult g =>
    obtain ⟨t, bytes⟩ := rxSeq_completes (s := consume rest s) inv (resultBytes g)
    exact ⟨t, (runResult_eq g _).trans bytes⟩
  | reset => exact ⟨_, rfl⟩

end Sys2Proof.Machine

/-! A request is the ENCODE of its type byte and payload (30_encoding.md R74, 42_encoder.md R132). In IDLE and DONE
ENCODE accepts a command, and a query with a zero payload; while a transaction is in flight it raises OVERLAP. -/

namespace Sys2Proof.Machine

open Sys2Proof.Claims

/-! ### ENCODE by phase and class -/

/-- Under an allowed TYPE_CODE a request row's type byte and payload are ones ENCODE accepts (R74, R76). -/
theorem acceptable_of_decodeRequest {p : Params} (valid : p.Valid) {t a b : Byte} {i : Instr}
    (decoded : decodeRequest p t a b = some i) :
    isCommandType t = true ∨ isQueryType t = true ∧ a = 0#8 ∧ b = 0#8 := by
  obtain ⟨n, rfl, row⟩ := decodeRequest_eq_some decoded
  obtain ⟨commands, queries, _⟩ := valid
  obtain command | query := List.mem_append.1 (mem_all n)
  · exact .inl (commands n command)
  · exact .inr ⟨queries n query, ofRequest_query query row⟩

theorem not_or_of_ready {s : State} (ready : Ready s) : ¬ (s.block.phase = .tx ∨ s.block.phase = .rx) :=
  not_inFlight_of_ready ready

theorem encodeRequest_command {s : State} (ready : Ready s) {t : Byte} (command : isCommandType t = true) (a b : Byte) :
    encodeRequest t a b s = .next (acceptRequest .cmd t a b s) := by
  rw [encodeRequest, hostOp_of_ne (ne_fault_of_ready ready), if_neg (not_or_of_ready ready),
    classify_command command]

theorem encodeRequest_query {s : State} (ready : Ready s) {t : Byte} (query : isQueryType t = true) :
    encodeRequest t 0 0 s = .next (acceptRequest .qry t 0 0 s) := by
  rw [encodeRequest, hostOp_of_ne (ne_fault_of_ready ready), if_neg (not_or_of_ready ready),
    classify_query query]
  rfl

theorem encodeRequest_acceptable {s : State} (ready : Ready s) {t a b : Byte}
    (acceptable : isCommandType t = true ∨ isQueryType t = true ∧ a = 0#8 ∧ b = 0#8) :
    ∃ c, encodeRequest t a b s = .next (acceptRequest c t a b s) := by
  obtain command | ⟨query, rfl, rfl⟩ := acceptable
  · exact ⟨.cmd, encodeRequest_command ready command a b⟩
  · exact ⟨.qry, encodeRequest_query ready query⟩


/-- In a transaction ENCODE raises OVERLAP, whatever the request (R204). -/
theorem encodeRequest_overlap {s : State} (inFlight : InFlight s) (t a b : Byte) :
    encodeRequest t a b s = .next (faulted .overlap (encodeWord t a b) s) :=
  (hostOp_of_ne (ne_fault_of_inFlight inFlight)).trans (if_pos inFlight)

/-- Settles O9: the type byte's range is its class, and the class decides the response length and the payload check. -/
theorem encodeStartsTransaction : Obligations.EncodeStartsTransaction := by
  intro s t a b ready
  refine ⟨fun range => ?command, fun range => ?query⟩
  case command => exact encodeRequest_command ready ((isCommandType_iff t).2 range) a b
  case query => exact encodeRequest_query ready ((isQueryType_iff t).2 range)

/-! ### The request rows -/

/-- A command's row starts its transaction with the type byte TYPE_CODE gives its name. -/
theorem exec_command {n : ReqName} {a b : Byte} {i : Instr} {s : State} {p : Params}
    (row : Instr.ofRequest n a b = some i) (ready : Ready s) (cfg : s.cfg = p)
    (command : isCommandType (p.code n) = true) : exec i s = .next (startedCommand (p.code n) a b s) := by
  rw [exec_ofRequest row, cfg]
  exact encodeRequest_command ready command a b

/-- A query's row starts its transaction with the type byte TYPE_CODE gives its name and a zero payload. -/
theorem exec_query {n : ReqName} {i : Instr} {s : State} {p : Params} (row : Instr.ofRequest n 0 0 = some i)
    (ready : Ready s) (cfg : s.cfg = p) (query : isQueryType (p.code n) = true) :
    exec i s = .next (startedQuery (p.code n) s) := by
  rw [exec_ofRequest row, cfg]
  exact encodeRequest_query ready query

/-- Settles O11: the default type codes of the command names, in listing order. -/
theorem commandRequestsStart : Obligations.CommandRequestsStart := by
  intro s a b ready cfg
  exact ⟨exec_command (n := .toggleLoad) rfl ready cfg rfl, exec_command (n := .setCurrent) rfl ready cfg rfl,
    exec_command (n := .setCutoffVoltage) rfl ready cfg rfl, exec_command (n := .setTimeout) rfl ready cfg rfl,
    exec_command (n := .resetCounters) rfl ready cfg rfl⟩

/-- Settles O12: the default type codes of the query names, in listing order. -/
theorem queryRequestsStart : Obligations.QueryRequestsStart := by
  intro s ready cfg
  exact ⟨exec_query (n := .loadEnabled) rfl ready cfg rfl, exec_query (n := .voltageReading) rfl ready cfg rfl,
    exec_query (n := .currentReading) rfl ready cfg rfl, exec_query (n := .elapsedTime) rfl ready cfg rfl,
    exec_query (n := .capacityMilliAmpHours) rfl ready cfg rfl,
    exec_query (n := .capacityMilliWattHours) rfl ready cfg rfl,
    exec_query (n := .mosfetTemperature) rfl ready cfg rfl, exec_query (n := .currentSetting) rfl ready cfg rfl,
    exec_query (n := .cutoffVoltageSetting) rfl ready cfg rfl, exec_query (n := .timerSetting) rfl ready cfg rfl⟩

/-- Settles O13: the frame's bytes are the ones ENCODE latches, and with its markers they are the whole frame. -/
theorem requestEmitsItsOwnFrame : Obligations.RequestEmitsItsOwnFrame := by
  intro s i f valid ready decoded
  obtain ⟨markers, request⟩ := decodeFrame_eq_ok decoded
  obtain ⟨c, accepted⟩ := encodeRequest_acceptable ready (acceptable_of_decodeRequest valid request)
  exact ⟨_, (exec_decodeRequest request).trans accepted, rfl, frameWord_fields markers, rfl, rfl, rfl, rfl⟩

/-- In a transaction a request row raises OVERLAP with the host word of its type byte and payload. -/
theorem exec_request_overlap {n : ReqName} {a b : Byte} {i : Instr} {s : State} {p : Params} {w : HostWord}
    (row : Instr.ofRequest n a b = some i) (inFlight : InFlight s) (cfg : s.cfg = p)
    (word : encodeWord (p.code n) a b = w) : exec i s = .next (faulted .overlap w s) := by
  rw [exec_ofRequest row, cfg, ← word]
  exact encodeRequest_overlap inFlight _ _ _

/-- Settles O14: ENCODE and each request row raise OVERLAP with the ENCODE word of the row's default type byte. -/
theorem requestInFlightOverlaps : Obligations.RequestInFlightOverlaps := by
  intro s t a b inFlight cfg
  exact ⟨encodeRequest_overlap inFlight t a b,
    exec_request_overlap (n := .toggleLoad) rfl inFlight cfg rfl,
    exec_request_overlap (n := .setCurrent) rfl inFlight cfg rfl,
    exec_request_overlap (n := .setCutoffVoltage) rfl inFlight cfg rfl,
    exec_request_overlap (n := .setTimeout) rfl inFlight cfg rfl,
    exec_request_overlap (n := .resetCounters) rfl inFlight cfg rfl,
    exec_request_overlap (n := .loadEnabled) (a := 0) (b := 0) rfl inFlight cfg rfl,
    exec_request_overlap (n := .voltageReading) (a := 0) (b := 0) rfl inFlight cfg rfl,
    exec_request_overlap (n := .currentReading) (a := 0) (b := 0) rfl inFlight cfg rfl,
    exec_request_overlap (n := .elapsedTime) (a := 0) (b := 0) rfl inFlight cfg rfl,
    exec_request_overlap (n := .capacityMilliAmpHours) (a := 0) (b := 0) rfl inFlight cfg rfl,
    exec_request_overlap (n := .capacityMilliWattHours) (a := 0) (b := 0) rfl inFlight cfg rfl,
    exec_request_overlap (n := .mosfetTemperature) (a := 0) (b := 0) rfl inFlight cfg rfl,
    exec_request_overlap (n := .currentSetting) (a := 0) (b := 0) rfl inFlight cfg rfl,
    exec_request_overlap (n := .cutoffVoltageSetting) (a := 0) (b := 0) rfl inFlight cfg rfl,
    exec_request_overlap (n := .timerSetting) (a := 0) (b := 0) rfl inFlight cfg rfl⟩

end Sys2Proof.Machine

/-! Which step comes next, what it runs, and when it enters FAULT (20_memory.md R51; 60_exceptions.md R200, R212, R215).
The host alone raises faults, and only by an operation that breaks its contract. -/

namespace Sys2Proof.Machine

open Sys2Proof.Safety Sys2Proof.Claims

/-! ### The chosen step -/

theorem takeEnabled_cons_waiting {p : Phase} {y : Input} (ys : List Input) (waits : y.enabled p = false) :
    takeEnabled p (y :: ys) = (takeEnabled p ys).map fun chosen => (chosen.1, y :: chosen.2) := by
  rw [takeEnabled, if_neg (by simp [waits])]
  cases takeEnabled p ys <;> rfl

/-- Steps that are not enabled wait, and the first enabled one after them is taken. -/
theorem takeEnabled_append {p : Phase} {waiting : List Input} (waits : ∀ y ∈ waiting, y.enabled p = false)
    {x : Input} (enabled : x.enabled p = true) (rest : List Input) :
    takeEnabled p (waiting ++ x :: rest) = some (x, waiting ++ rest) := by
  induction waiting with
  | nil => exact takeEnabled_cons_enabled enabled
  | cons y ys ih =>
    obtain ⟨y_waits, ys_wait⟩ := List.forall_mem_cons.1 waits
    rw [List.cons_append, takeEnabled_cons_waiting _ y_waits, ih ys_wait]
    rfl

theorem takeEnabled_eq_none {p : Phase} {xs : List Input} (wait : ∀ y ∈ xs, y.enabled p = false) :
    takeEnabled p xs = none := by
  induction xs with
  | nil => rfl
  | cons y ys ih =>
    obtain ⟨y_waits, ys_wait⟩ := List.forall_mem_cons.1 wait
    rw [takeEnabled_cons_waiting _ y_waits, ih ys_wait]
    rfl

/-- Settles O6: the choice passes over the steps that are not enabled, and keeps them in their order. -/
theorem stepTakesFirstEnabledInput : Obligations.StepTakesFirstEnabledInput := by
  refine ⟨fun s waiting rest x pending waits enabled => ?moves, fun s wait => ?waits⟩
  case moves => exact step_of_taken (pending ▸ takeEnabled_append waits enabled rest)
  case waits => rw [step, stepPending, takeEnabled_eq_none wait]

/-! ### The instruction a word presents -/

theorem exec_decodeAck (k : Byte) (s : State) : exec (decodeAck k) s = rxByte k s := by
  by_cases ok : k = Config.ackOkByte
  · rw [ok]
    rfl
  · rw [decodeAck_of_ne ok]
    rfl

/-- At its port a word that decodes runs as the instruction it decodes to. -/
theorem runInput_inputOf {tw : TableWord} {s : State} {i : Instr} (decoded : decode s.cfg tw = .ok i) :
    runInput (inputOf tw) s = exec i s := by
  cases tw with
  | out6 f =>
    have decoded : decodeFrame s.cfg f = .ok i := decoded
    change runRequest f s = _
    rw [runRequest, decoded]
  | hw32 w => exact runHostWord_ok decoded s
  | ack1 k =>
    cases decoded
    exact (exec_decodeAck k s).symm
  | qres7 g => exact (runResult_eq g s).trans (exec_decodeResult decoded s).symm

/-- Settles O5: the chosen step's word is decoded under the parameters, which taking the step does not change. -/
theorem stepRunsDecodedInstruction : Obligations.StepRunsDecodedInstruction := by
  intro s tw rest i taken decoded _
  rw [step_of_taken taken]
  exact runInput_inputOf (s := consume rest s) decoded

theorem runHostWord_encodeWord (t a b : Byte) (s : State) : runHostWord (encodeWord t a b) s = encodeRequest t a b s :=
  runHostWord_ok (decodeHostWord_encodeWord t a b) s

theorem runRequest_frameWord (t a b : Byte) (s : State) : runRequest (frameWord t a b) s = encodeRequest t a b s := by
  rw [runRequest_of_markers (frameMarkersOk_frameWord t a b), frameType_frameWord, frameP0_frameWord,
    frameP1_frameWord]

/-- Settles O7: both forms are the ENCODE of the same three bytes, and without its markers a value is no request. -/
theorem requestFormIsItsHostWord : Obligations.RequestFormIsItsHostWord := by
  refine ⟨fun t a b s => ?forms, fun f s wrong => ?wrongMarkers⟩
  case forms => exact (runRequest_frameWord t a b s).trans (runHostWord_encodeWord t a b s).symm
  case wrongMarkers =>
    refine runRequest_without_markers fun markers => ?_
    obtain ⟨header0, header1, trailer⟩ := (frameMarkersOk_iff f).1 markers
    obtain wrong | wrong | wrong := wrong
    · exact wrong header0
    · exact wrong header1
    · exact wrong trailer

/-! ### Entering FAULT -/

/-- A host operation that ends in FAULT, begun outside it, raised one fault and did nothing else (R200). -/
theorem hostEffect_fault {s t : State} (effect : HostEffect s t) (notFault : s.block.phase ≠ .fault)
    (inFault : t.block.phase = .fault) : ∃ code w, code ≠ .none ∧ t = raiseFault code w s := by
  obtain rfl | raised | ⟨_, _, _, _, _, rfl⟩ | ⟨_, _, _, rfl⟩ | ⟨_, rfl⟩ | ⟨_, _, rfl⟩ := effect
  · exact absurd inFault notFault
  · exact raised
  · cases inFault
  · cases inFault
  · cases inFault
  · exact absurd inFault notFault

/-- FWORD is the host word that was issued (R200). -/
theorem runHostWord_fault_fWord {w : HostWord} {s t : State} (notFault : s.block.phase ≠ .fault)
    (run : runHostWord w s = .next t) (inFault : t.block.phase = .fault) : t.block.fWord = w := by
  obtain ⟨o, fault⟩ := hostFault_exists notFault w
  have reports := reports_of_hostFault notFault fault
  cases o with
  | some code =>
    cases run.symm.trans reports
    rfl
  | none =>
    obtain ⟨t', run', t'_notFault, _⟩ := reports
    cases run.symm.trans run'
    exact absurd inFault t'_notFault

theorem rxSeq_phase_ne_fault {ks : List Byte} {s t : State} (notFault : s.block.phase ≠ .fault)
    (bytes : rxSeq ks s = .next t) : t.block.phase ≠ .fault :=
  rxSeq_keeps (P := fun u => u.block.phase ≠ .fault) (fun _ _ _ => rxByte_phase_ne_fault) notFault bytes

/-- Settles O23: the host's effect is the one that enters FAULT; the channel's steps and RESET never do. -/
theorem faultEntryIsPrecise : Obligations.FaultEntryIsPrecise := by
  intro s t x notFault run inFault
  have host : ((∃ w, x = .hostWord w) ∨ ∃ f, x = .hostRequest f) ∧ HostEffect s t := by
    obtain host | ⟨_, ks, bytes⟩ | ⟨_, ks, bytes⟩ | ⟨_, pop⟩ | ⟨_, rfl⟩ := runInput_next run
    · exact host
    · exact absurd inFault (rxSeq_phase_ne_fault notFault bytes)
    · exact absurd inFault (rxSeq_phase_ne_fault notFault bytes)
    · exact absurd inFault (txPop_phase_ne_fault pop)
    · cases inFault
  obtain ⟨code, w, raised, rfl⟩ := hostEffect_fault host.2 notFault inFault
  refine ⟨raised, rfl, ?word⟩
  case word =>
    rintro w' rfl
    exact runHostWord_fault_fWord notFault run inFault

/-! ### Staying in FAULT -/

theorem takeEnabled_mem {p : Phase} {xs ys : List Input} {x : Input} (taken : takeEnabled p xs = some (x, ys)) :
    x ∈ xs ∧ ys ⊆ xs := by
  obtain ⟨waiting, rest, rfl, rfl, _, _⟩ := takeEnabled_eq_some taken
  refine ⟨by simp, fun y kept => ?_⟩
  obtain waits | later := List.mem_append.1 kept
  · exact List.mem_append_left _ waits
  · exact List.mem_append_right _ (List.mem_cons_of_mem _ later)

/-- In FAULT a step that is not RESET only takes itself off the pending steps (R212). -/
theorem step_of_fault {s t : State} (inFault : s.block.phase = .fault) (no_reset : Input.reset ∉ s.pending)
    (run : step s = .next t) : ∃ rest, t = consume rest s ∧ rest ⊆ s.pending := by
  obtain ⟨x, rest, taken, _, run⟩ := step_next run
  obtain ⟨pending, kept⟩ := takeEnabled_mem taken
  have not_reset : x ≠ .reset := by
    rintro rfl
    exact no_reset pending
  exact ⟨rest, runInput_of_fault_next (s := consume rest s) inFault not_reset run, kept⟩

/-- Settles O25: by induction on the steps; each leaves the block and the wire, and no RESET becomes pending. -/
theorem faultIsStickyUntilReset : Obligations.FaultIsStickyUntilReset := by
  intro n
  induction n with
  | zero =>
    intro s t _ _ run
    cases run
    exact ⟨rfl, rfl⟩
  | succ n ih =>
    intro s t inFault no_reset run
    obtain ⟨m, first, later⟩ := run_next run
    obtain ⟨rest, rfl, kept⟩ := step_of_fault inFault no_reset first
    exact ih (consume rest s) t inFault (fun pending => no_reset (kept pending)) later

/-! ### The host contract -/

theorem ready_of_mayRequest {s : State} (may : mayRequest s.block.phase = true) : Ready s := by
  simpa [mayRequest, Ready] using may

/-- A host word's row that keeps the contract ends outside FAULT. -/
theorem exec_hostWord_phase_ne_fault {w : HostWord} {i : Instr} {s t : State} (decoded : decodeHostWord w = .ok i)
    (keeps : keepsContract s.block.phase i = true) (notFault : s.block.phase ≠ .fault) (run : exec i s = .next t) :
    t.block.phase ≠ .fault := by
  cases i with
  | nop =>
    cases (hostOp_of_ne notFault).symm.trans run
    exact notFault
  | encode ty a b =>
    have keeps : mayRequest s.block.phase = true ∧
        (isCommandType ty = true ∨ isQueryType ty = true ∧ a = 0#8 ∧ b = 0#8) := by
      simpa [keepsContract, and_assoc] using keeps
    obtain ⟨c, accepted⟩ := encodeRequest_acceptable (ready_of_mayRequest keeps.1) keeps.2
    cases accepted.symm.trans run
    simp
  | abort =>
    cases (hostOp_of_ne notFault).symm.trans run
    exact abortTransaction_phase_ne_fault notFault
  | fmtf h =>
    cases (exec_fmtf_of_le notFault (of_decide_eq_true keeps)).symm.trans run
    exact notFault
  | fmtd sec =>
    cases (exec_fmtd_of_ne sec notFault).symm.trans run
    exact notFault
  | reserved101 rest => cases keeps
  | reserved110 rest => cases keeps
  | reserved111 rest => cases keeps
  | _ => cases (encode_of_decodeHostWord (p := s.cfg) decoded).1

/-- A request in its OUT6 form that keeps the contract is accepted. -/
theorem runRequest_phase_ne_fault {f : FrameWord} {i : Instr} {s t : State} (valid : s.cfg.Valid)
    (decoded : decodeFrame s.cfg f = .ok i) (keeps : keepsContract s.block.phase i = true)
    (run : runRequest f s = .next t) : t.block.phase ≠ .fault := by
  obtain ⟨markers, request⟩ := decodeFrame_eq_ok decoded
  obtain ⟨n, _, row⟩ := decodeRequest_eq_some request
  rw [keepsContract_ofRequest row] at keeps
  obtain ⟨c, accepted⟩ :=
    encodeRequest_acceptable (ready_of_mayRequest keeps) (acceptable_of_decodeRequest valid request)
  cases ((runRequest_of_markers markers).trans accepted).symm.trans run
  simp

theorem hostWord_keepsContract {cfg : Params} {p : Phase} {w : HostWord}
    (keeps : inputKeepsContract cfg p (.hostWord w) = true) :
    ∃ i, decodeHostWord w = .ok i ∧ keepsContract p i = true := by
  simp only [inputKeepsContract] at keeps
  split at keeps
  · exact ⟨_, ‹_›, keeps⟩
  · cases keeps

theorem hostRequest_keepsContract {cfg : Params} {p : Phase} {f : FrameWord}
    (keeps : inputKeepsContract cfg p (.hostRequest f) = true) :
    ∃ i, decodeFrame cfg f = .ok i ∧ keepsContract p i = true := by
  simp only [inputKeepsContract] at keeps
  split at keeps
  · exact ⟨_, ‹_›, keeps⟩
  · cases keeps

/-- An agent's step that keeps the host contract never enters FAULT (R215). -/
theorem runInput_phase_ne_fault {x : Input} {s t : State} (valid : s.cfg.Valid) (notFault : s.block.phase ≠ .fault)
    (keeps : inputKeepsContract s.cfg s.block.phase x = true) (run : runInput x s = .next t) :
    t.block.phase ≠ .fault := by
  cases x with
  | hostWord w =>
    obtain ⟨i, decoded, keeps⟩ := hostWord_keepsContract keeps
    exact exec_hostWord_phase_ne_fault decoded keeps notFault ((runHostWord_ok decoded s).symm.trans run)
  | hostRequest f =>
    obtain ⟨i, decoded, keeps⟩ := hostRequest_keepsContract keeps
    exact runRequest_phase_ne_fault valid decoded keeps run
  | txPop => exact txPop_phase_ne_fault run
  | rxByte k => exact rxByte_phase_ne_fault notFault run
  | rxResult g => exact runResult_phase_ne_fault notFault run
  | reset =>
    cases run
    simp

/-- The contract of a run is the contract of its first step and of the run after it. -/
theorem runKeepsContract_step {n : Nat} {s m : State} {x : Input} {rest : List Input}
    (contract : runKeepsContract (n + 1) s) (taken : takeEnabled s.block.phase s.pending = some (x, rest))
    (first : step s = .next m) : inputKeepsContract s.cfg s.block.phase x = true ∧ runKeepsContract n m := by
  rw [runKeepsContract, taken] at contract
  exact ⟨contract.1, contract.2 m first⟩

/-- Settles O49: by induction on the steps; none changes TYPE_CODE, and one that keeps the contract ends outside
FAULT. -/
theorem contractHostNeverFaults : Obligations.ContractHostNeverFaults := by
  intro n
  induction n with
  | zero =>
    intro s t _ _ notFault _ run
    cases run
    exact notFault
  | succ n ih =>
    intro s t inv valid notFault contract run
    obtain ⟨m, first, later⟩ := run_next run
    obtain ⟨x, rest, taken, _, agent⟩ := step_next first
    obtain ⟨keeps, contract⟩ := runKeepsContract_step contract taken first
    have same_cfg : m.cfg = s.cfg := (onlyTxPopEmits x _ m agent).1
    exact ih m t (stepKeepsInvariants s m inv first) (same_cfg ▸ valid)
      (runInput_phase_ne_fault (s := consume rest s) valid notFault keeps agent) contract later

end Sys2Proof.Machine

/-! The remaining instructions and reads, one by one: FMTF of a truncated rational, the reserved rows, the response
bytes outside and inside a capture, what the host reads, and the host's retries. -/

namespace Sys2Proof.Machine

open Sys2Proof.Safety Sys2Proof.Claims

/-! ### FMTF and the reserved rows -/

/-- The hundredths of `n / d` are those of its integer part and those of its fraction, truncated (R176). -/
theorem hundredths_split (n : Nat) {d : Nat} (positive : 0 < d) :
    100 * n / d = 100 * (n / d) + n % d * 100 / d := by
  have whole : 100 * n = n % d * 100 + d * (100 * (n / d)) := by
    conv => lhs; rw [← Nat.mod_add_div n d]
    ring
  rw [whole, Nat.add_mul_div_left _ _ positive, Nat.add_comm]

theorem fraction_lt_hundred (n : Nat) {d : Nat} (positive : 0 < d) : n % d * 100 / d < 100 :=
  Nat.div_lt_of_lt_mul (Nat.mul_lt_mul_of_pos_right (Nat.mod_lt n positive) (by decide))

/-- Settles O18: the operand's two digits to the base 100 are the integer part and the truncated fraction. -/
theorem fmtfTruncatesRationals : Obligations.FmtfTruncatesRationals := by
  intro s n d h notFault positive fits operand
  rw [hundredths_split n positive] at operand
  have below_hundred := fraction_lt_hundred n positive
  generalize n / d = whole, n % d * 100 / d = fraction at *
  refine ⟨_, exec_fmtf_of_le notFault (by omega), ?integer, ?fraction⟩
  case integer => exact (byte_ofNat_toNat (by omega)).trans (by omega)
  case fraction => exact (byte_ofNat_toNat (by omega)).trans (by omega)

/-- Settles O20: each reserved row raises the fault with the word of its HOP. -/
theorem reservedRowsFault : Obligations.ReservedRowsFault := by
  intro s rest notFault
  have raises (hop : BitVec 3) : illegalOperation (reservedWord hop rest) s =
      .next (faulted .illegalOperation (reservedWord hop rest) s) := hostOp_of_ne notFault
  exact ⟨raises 0b101, raises 0b110, raises 0b111⟩

/-! ### Response bytes outside a capture -/

/-- Settles O28: a byte outside RX changes nothing, so any number of them do not. -/
theorem droppedOutsideCapture : Obligations.DroppedOutsideCapture := by
  intro s k v0 v1 v2 g notRx
  exact ⟨rxByte_of_ne notRx, (runResult_eq g s).trans (rxSeq_of_ne notRx), rxByte_of_ne notRx, rxByte_of_ne notRx,
    rxSeq_of_ne notRx⟩

/-! ### A whole response -/

/-- Settles O32: the row's bytes are a response with its markers right, so its outcome is the value. -/
theorem queryResultCompletes : Obligations.QueryResultCompletes := by
  intro s kind v0 v1 v2 rx qry start length defined
  obtain ⟨k, v, outcome, run⟩ :=
    queryResponseDecoded s kind #v[0xCA, 0xCB, v0, v1, v2, 0xCE, 0xCF] rx qry start length defined
  have value : valueResult kind v0 v1 v2 k v := by
    unfold queryOutcome at outcome
    rwa [if_pos ⟨rfl, rfl, rfl, rfl⟩] at outcome
  exact ⟨k, v, value, run⟩

/-- The decoder has a value at the length the class gives a response (R154, R158). -/
theorem decodeResponse_of_length (p : Params) {c : ReqClass} {t : Byte} (accepted : classMatches c t) {ks : List Byte}
    (length : ks.length = if c = .cmd then 1 else 7) : ∃ r, decodeResponse p c t ks = some r := by
  cases c with
  | cmd =>
    obtain ⟨k, rfl⟩ := List.length_eq_one_iff.1 length
    exact ⟨_, rfl⟩
  | qry =>
    obtain ⟨kind, defined⟩ := Option.isSome_iff_exists.1 ((kindOf_isSome_iff p t).2 accepted)
    obtain ⟨r, decoded, _⟩ := decodeResponse_queryOutcome defined ⟨ks.toArray, length⟩
    exact ⟨r, decoded⟩

/-- From the start of a capture the first EXPLEN bytes complete it (R151, R152). -/
theorem rxSeq_expLen {s : State} {ks : List Byte} (inv : BlockInv s.block) (rx : s.block.phase = .rx)
    (start : s.block.rxCnt = 0) (length : ks.length = s.block.expLen.toNat) :
    ∃ (buf : Vector Byte 7) (r : Result), buf.toList.take s.block.expLen.toNat = ks ∧
      rxSeq ks s = .next (captured buf s.block.expLen r.kind r.val s) := by
  have accepted : s.block.expLen ≠ 0 := inv.request_accepted (.inr (.inl rx))
  have class_length : ks.length = if s.block.reqClass = .cmd then 1 else 7 := by
    rw [length, inv.length_of_class accepted, apply_ite BitVec.toNat]
    rfl
  have no_bytes : s.block.rxBuf.toList.take s.block.rxCnt.toNat = [] := by simp [start]
  obtain ⟨r, decoded⟩ := decodeResponse_of_length s.cfg (inv.class_of_type accepted) class_length
  obtain ⟨buf, bytes, run⟩ := rxSeq_complete (ks := ks) rx (inv.rx_position rx).2 (by simp [start, length])
    (by rw [no_bytes]; exact decoded)
  rw [no_bytes] at bytes
  exact ⟨buf, r, bytes, run⟩

/-- Settles O33: short of EXPLEN the capture goes on; the first EXPLEN bytes end it, and in DONE the rest are
dropped. -/
theorem captureLengthEnforced : Obligations.CaptureLengthEnforced := by
  refine fun s ks inv rx start => ⟨fun short => ?short, fun enough => ?enough⟩
  case short =>
    obtain ⟨buf, n, number, bytes, run⟩ := rxSeq_before_last (ks := ks) rx (by simpa [start] using short)
    have count : n.toNat = ks.length := by simpa [start] using number
    rw [count] at bytes
    exact ⟨_, run, rx, count, by simpa [start, capturing] using bytes⟩
  case enough =>
    obtain ⟨buf, r, bytes, run⟩ := rxSeq_expLen (ks := ks.take s.block.expLen.toNat) inv rx start
      (List.length_take_of_le enough)
    have dropped := rxSeq_of_ne (ks := ks.drop s.block.expLen.toNat)
      (s := captured buf s.block.expLen r.kind r.val s) (by simp [captured])
    have whole := rxSeq_append (ls := ks.drop s.block.expLen.toNat) run
    rw [List.take_append_drop] at whole
    exact ⟨_, whole.trans dropped, rfl, run, rfl, bytes⟩

/-! ### Host reads -/

theorem extractLsb'_setWidth_byte (k : Byte) : (k.setWidth 24).extractLsb' 0 8 = k := by
  simpa using extractLsb'_setWidth_shiftLeft_same (w := 24) (k := 0) k (by decide)

/-- The three bytes of a duration are read back from where they were placed (R30). -/
theorem durBytes (h m s : Byte) : (Result.dur h m s).val.extractLsb' 16 8 = h ∧
    (Result.dur h m s).val.extractLsb' 8 8 = m ∧ (Result.dur h m s).val.extractLsb' 0 8 = s := by
  have placed (start : Nat) : (Result.dur h m s).val.extractLsb' start 8 =
      (h.setWidth 24 <<< 16).extractLsb' start 8 ||| (m.setWidth 24 <<< 8).extractLsb' start 8 |||
      (s.setWidth 24 <<< 0).extractLsb' start 8 := by
    simp only [Result.val, BitVec.shiftLeft_zero, BitVec.extractLsb'_or]
  refine ⟨?_, ?_, ?_⟩ <;>
    simp (disch := omega) only [placed, extractLsb'_setWidth_shiftLeft_same, extractLsb'_setWidth_shiftLeft_apart,
      BitVec.zero_or, BitVec.or_zero]

/-- Settles O40: each kind says how its value was placed in RES_VAL, and so how to read it back. -/
theorem resultRegistersCarryTheResult : Obligations.ResultRegistersCarryTheResult := by
  intro s r
  cases r with
  | ackErr raw => exact congrArg (some ∘ Result.ackErr) (extractLsb'_setWidth_byte raw)
  | bool x => cases x <;> rfl
  | dur h m sec =>
    obtain ⟨hours, minutes, seconds⟩ := durBytes h m sec
    simp only [readResult, Result.kind, hours, minutes, seconds]
  | ackOk | u24 n | invalidResponse | aborted => rfl

/-- Settles O41: below RXCNT, and once FMT_VALID, a read is not a free value. -/
theorem definedReadsGiveTheRegister : Obligations.DefinedReadsGiveTheRegister :=
  ⟨fun _ _ below => if_pos below, fun _ valid => ⟨if_pos valid, if_pos valid⟩⟩

/-! ### The host's retries -/

theorem attempts_of_retry {n made : Nat} {k : ResKind} (ks : List ResKind) (retries : mayRetry n (made + 1) k = true) :
    attempts n made (k :: ks) = attempts n (made + 1) ks := if_pos retries

theorem attempts_of_stop {n made : Nat} {k : ResKind} (ks : List ResKind) (stops : ¬ mayRetry n (made + 1) k = true) :
    attempts n made (k :: ks) = made + 1 := if_neg stops

theorem mayRetry_iff (n made : Nat) (k : ResKind) : mayRetry n made k = true ↔ k = .invalidResponse ∧ made < n := by
  simp [mayRetry]

theorem attempts_le {n made : Nat} (ks : List ResKind) (below : made < n) : attempts n made ks ≤ n := by
  induction ks generalizing made with
  | nil => exact below.le
  | cons k ks ih =>
    by_cases retries : mayRetry n (made + 1) k = true
    · rw [attempts_of_retry ks retries]
      exact ih ((mayRetry_iff _ _ _).1 retries).2
    · rw [attempts_of_stop ks retries]
      exact below

/-- While every attempt ends in INVALID_RESPONSE the host repeats until it has made `n` (R216). -/
theorem attempts_replicate {n m made : Nat} (below : made < n) (enough : n ≤ made + m) :
    attempts n made (List.replicate m .invalidResponse) = n := by
  induction m generalizing made with
  | zero => omega
  | succ m ih =>
    rw [List.replicate_succ]
    by_cases last : made + 1 = n
    · rw [attempts_of_stop _ fun retries => by have := ((mayRetry_iff _ _ _).1 retries).2; omega, last]
    · have more : made + 1 < n := by omega
      rw [attempts_of_retry _ ((mayRetry_iff _ _ _).2 ⟨rfl, more⟩), ih more (by omega)]

/-- After `j` attempts that end in INVALID_RESPONSE the one that ends otherwise is the last (R217). -/
theorem attempts_until {n j made : Nat} {k : ResKind} (ks : List ResKind) (below : made + j < n)
    (other : k ≠ .invalidResponse) :
    attempts n made (List.replicate j .invalidResponse ++ k :: ks) = made + j + 1 := by
  induction j generalizing made with
  | zero => exact attempts_of_stop ks fun retries => other ((mayRetry_iff _ _ _).1 retries).1
  | succ j ih =>
    rw [List.replicate_succ, List.cons_append, attempts_of_retry _ ((mayRetry_iff _ _ _).2 ⟨rfl, by omega⟩),
      ih (by omega)]
    omega

/-- Settles O50: the three counts, from none made. -/
theorem retryCountsAttempts : Obligations.RetryCountsAttempts := by
  refine ⟨fun n ks positive => attempts_le ks positive, fun n m positive enough => ?all,
    fun n j k ks below other => ?some⟩
  case all => exact attempts_replicate positive (by omega)
  case some => simpa using attempts_until (made := 0) ks (by omega) other

end Sys2Proof.Machine

/-! Runs of the machine over the channel's inputs (30_encoding.md R89): response bytes one machine step each, a frame's
six TXPOPs with stale bytes between them, and a whole transaction made of these. A step of the channel reads neither the
pending steps nor the epoch, so a run of them is the shared operation with those two moved on. -/

namespace Sys2Proof.Machine

open Sys2Proof.Safety Sys2Proof.Claims

/-! ### Sequences of outcomes -/

/-- The next state goes on to `k`; a stop stays. -/
def andThen (o : Out) (k : State → Out) : Out :=
  match o with
  | .next s => k s
  | .fault r => .fault r
  | .refused r => .refused r

@[simp] theorem andThen_next (s : State) (k : State → Out) : andThen (.next s) k = k s := rfl
@[simp] theorem andThen_fault (r : Fault) (k : State → Out) : andThen (.fault r) k = .fault r := rfl
@[simp] theorem andThen_refused (r : Refusal) (k : State → Out) : andThen (.refused r) k = .refused r := rfl

theorem andThen_assoc (o : Out) (k l : State → Out) : andThen (andThen o k) l = andThen o fun s => andThen (k s) l := by
  cases o <;> rfl

theorem rxSeq_cons (k : Byte) (ks : List Byte) (s : State) : rxSeq (k :: ks) s = andThen (rxByte k s) (rxSeq ks) := by
  rw [rxSeq]
  cases rxByte k s <;> rfl

/-- `n` steps of this machine, typed by its own states and outcomes. -/
def runSteps (n : Nat) (s : State) : Out := Host.Core.run core n s

theorem runSteps_zero (s : State) : runSteps 0 s = .next s := rfl

theorem runSteps_succ (n : Nat) (s : State) : runSteps (n + 1) s = andThen (step s) (runSteps n) := by
  cases first : step s with
  | next m => exact run_of_step first
  | fault r =>
    have first : core.step s = .fault r := first
    simp only [runSteps, Host.Core.run, first, andThen_fault]
    rfl
  | refused r =>
    have first : core.step s = .refused r := first
    simp only [runSteps, Host.Core.run, first, andThen_refused]
    rfl

theorem runSteps_add (m n : Nat) (s : State) : runSteps (m + n) s = andThen (runSteps m s) (runSteps n) := by
  induction m generalizing s with
  | zero => rw [Nat.zero_add, runSteps_zero, andThen_next]
  | succ m ih =>
    rw [Nat.succ_add, runSteps_succ, runSteps_succ, andThen_assoc]
    exact congrArg _ (funext ih)

/-! ### Response bytes as machine steps -/

/-- The same machine with `rest` still pending at epoch `n`. -/
def scheduled (rest : List Input) (n : Nat) (s : State) : State := { s with pending := rest, epoch := n }

theorem scheduled_eq_self {rest : List Input} {s : State} (pending : s.pending = rest) :
    scheduled rest s.epoch s = s := by
  rw [scheduled, ← pending]

theorem scheduled_scheduled (rest rest' : List Input) (n n' : Nat) (s : State) :
    scheduled rest n (scheduled rest' n' s) = scheduled rest n s := rfl

theorem afterCapture_scheduled (rest : List Input) (n : Nat) (b : Block) (s : State) :
    afterCapture b (scheduled rest n s) = andThen (afterCapture b s) fun t => .next (scheduled rest n t) := by
  by_cases full : b.rxCnt = b.expLen
  · rw [afterCapture, afterCapture, if_pos full, if_pos full]
    dsimp only [scheduled]
    cases decodeResponse s.cfg b.reqClass b.reqType (b.rxBuf.toList.take b.expLen.toNat) <;> rfl
  · rw [afterCapture, afterCapture, if_neg full, if_neg full]
    rfl

theorem rxByte_scheduled (rest : List Input) (n : Nat) (k : Byte) (s : State) :
    rxByte k (scheduled rest n s) = andThen (rxByte k s) fun t => .next (scheduled rest n t) := by
  by_cases rx : s.block.phase = .rx
  · by_cases room : s.block.rxCnt.toNat < 7
    · rw [rxByte_of_rx rx room, rxByte_of_rx (s := scheduled rest n s) rx room]
      exact afterCapture_scheduled rest n _ s
    · simp [rxByte, scheduled, rx, room]
  · rw [rxByte_of_ne rx, rxByte_of_ne (s := scheduled rest n s) rx]
    rfl

theorem rxSeq_scheduled (rest : List Input) (n : Nat) (ks : List Byte) (s : State) :
    rxSeq ks (scheduled rest n s) = andThen (rxSeq ks s) fun t => .next (scheduled rest n t) := by
  induction ks generalizing s with
  | nil => rfl
  | cons k ks ih =>
    rw [rxSeq_cons, rxSeq_cons, rxByte_scheduled, andThen_assoc, andThen_assoc]
    exact congrArg _ (funext ih)

/-- Pending RXBYTEs run as the sequence of their bytes, one machine step each (R57, R89). -/
theorem runSteps_rxInputs {ks : List Byte} {rest : List Input} {s : State} (pending : s.pending = rxInputs ks ++ rest) :
    runSteps ks.length s = rxSeq ks (scheduled rest (s.epoch + ks.length) s) := by
  induction ks generalizing s with
  | nil => exact congrArg Host.Outcome.next (scheduled_eq_self pending).symm
  | cons k ks ih =>
    have first : step s = rxByte k (consume (rxInputs ks ++ rest) s) := step_cons pending rfl
    have same : scheduled rest (s.epoch + (ks.length + 1)) s =
        scheduled rest (s.epoch + 1 + ks.length) (consume (rxInputs ks ++ rest) s) := by
      rw [Nat.add_right_comm, Nat.add_assoc]
      rfl
    rw [List.length_cons, runSteps_succ, first, same, rxSeq_cons, rxByte_scheduled, andThen_assoc]
    cases byte : rxByte k (consume (rxInputs ks ++ rest) s) with
    | next m =>
      have frame := rxByte_frame byte
      have m_pending : m.pending = rxInputs ks ++ rest := by rw [frame]; rfl
      have m_epoch : m.epoch = s.epoch + 1 := by rw [frame]; rfl
      rw [andThen_next, andThen_next, andThen_next, ih m_pending, m_epoch]
    | fault r => rfl
    | refused r => rfl

/-- Settles O8: seven steps over the bytes and one over their word run the same sequence; they differ in the steps the
epoch counts. -/
theorem resultWordIsSevenBytes : Obligations.ResultWordIsSevenBytes := by
  intro s t g rest run
  have bytes : rxSeq (resultBytes g) (scheduled rest (s.epoch + 7) s) = .next t :=
    (runSteps_rxInputs (s := { s with pending := rxInputs (resultBytes g) ++ rest }) rfl).symm.trans run
  have whole : step { s with pending := .rxResult g :: rest } = runResult g (scheduled rest (s.epoch + 1) s) :=
    step_cons (s := { s with pending := .rxResult g :: rest }) (x := .rxResult g) rfl rfl
  have moved := rxSeq_scheduled rest (s.epoch + 1) (resultBytes g) (scheduled rest (s.epoch + 7) s)
  have t_pending : t.pending = rest := by rw [rxSeq_frame bytes]; rfl
  rw [scheduled_scheduled, bytes, andThen_next] at moved
  rw [whole, runResult_eq, moved, scheduled, ← t_pending]

/-! ### A frame's six TXPOPs -/

/-- After `n` more bytes of the frame. -/
def emitted (n : Nat) (s : State) : State :=
  { s with
    block := { s.block with txIdx := BitVec.ofNat 3 (s.block.txIdx.toNat + n) }
    wire := s.wire ++ (s.block.txBuf.toList.drop s.block.txIdx.toNat).take n }

theorem emitted_zero (s : State) : emitted 0 s = s := by
  simp [emitted]

/-- TXPOP before the sixth is one more byte emitted (R136). -/
theorem txPop_emitted {s : State} (tx : s.block.phase = .tx) (position : s.block.txIdx.toNat < 5) :
    txPop s = .next (emitted 1 s) := by
  have in_frame : s.block.txIdx.toNat < s.block.txBuf.toList.length := by simp; omega
  have next : s.block.txIdx + 1 = BitVec.ofNat 3 (s.block.txIdx.toNat + 1) := by
    apply BitVec.eq_of_toNat_eq
    rw [toNat_add_one_of_lt (by omega), BitVec.toNat_ofNat, Nat.mod_eq_of_lt (by omega)]
  rw [txPop_of_tx tx (by omega), advanceFrame_before position, emitted, next, List.drop_eq_getElem_cons in_frame]
  rfl

theorem emitted_add {s : State} {m : Nat} (n : Nat) (inFrame : s.block.txIdx.toNat + m ≤ 6) :
    emitted n (emitted m s) = emitted (m + n) s := by
  have position : (BitVec.ofNat 3 (s.block.txIdx.toNat + m)).toNat = s.block.txIdx.toNat + m := by
    rw [BitVec.toNat_ofNat, Nat.mod_eq_of_lt (by omega)]
  simp only [emitted, position, List.append_assoc, Nat.add_assoc, List.take_add, List.drop_drop]

/-- The TXPOPs among the inputs. -/
def popCount (xs : List Input) : Nat := xs.countP (· == Input.txPop)

@[simp] theorem popCount_nil : popCount [] = 0 := rfl

@[simp] theorem popCount_txPop (xs : List Input) : popCount (.txPop :: xs) = 1 + popCount xs := by
  simp [popCount, Nat.add_comm]

@[simp] theorem popCount_rxByte (k : Byte) (xs : List Input) : popCount (.rxByte k :: xs) = popCount xs := by
  simp [popCount]

/-- In TX response bytes are dropped, so of inputs short of the sixth TXPOP only the TXPOPs count (R60, R136). -/
theorem runSteps_emitting {xs rest : List Input} {s : State} (tx : s.block.phase = .tx)
    (channel : ∀ x ∈ xs, x = .txPop ∨ ∃ k, x = .rxByte k) (short : s.block.txIdx.toNat + popCount xs < 6)
    (pending : s.pending = xs ++ rest) :
    runSteps xs.length s = .next (scheduled rest (s.epoch + xs.length) (emitted (popCount xs) s)) := by
  induction xs generalizing s with
  | nil =>
    rw [popCount_nil, emitted_zero]
    exact congrArg Host.Outcome.next (scheduled_eq_self pending).symm
  | cons x xs ih =>
    obtain ⟨here, later⟩ := List.forall_mem_cons.1 channel
    have epoch : s.epoch + (xs.length + 1) = s.epoch + 1 + xs.length := by omega
    obtain rfl | ⟨k, rfl⟩ := here
    · rw [popCount_txPop] at short ⊢
      have first : step s = .next (emitted 1 (consume (xs ++ rest) s)) :=
        (step_cons pending ((enabled_txPop_iff _).2 tx)).trans
          (txPop_emitted (s := consume (xs ++ rest) s) tx (by rw [consume_block]; omega))
      have position : (emitted 1 (consume (xs ++ rest) s)).block.txIdx.toNat = s.block.txIdx.toNat + 1 := by
        rw [emitted, BitVec.toNat_ofNat, consume_block, Nat.mod_eq_of_lt (by omega)]
      have others := ih (s := emitted 1 (consume (xs ++ rest) s)) tx later (by omega) rfl
      rw [emitted_add _ (by rw [consume_block]; omega)] at others
      rw [List.length_cons, runSteps_succ, first, andThen_next, others, epoch]
      rfl
    · rw [popCount_rxByte] at short ⊢
      have first : step s = .next (consume (xs ++ rest) s) :=
        (step_cons pending rfl).trans (rxByte_of_ne (by simp [tx]))
      have others := ih (s := consume (xs ++ rest) s) tx later short rfl
      rw [List.length_cons, runSteps_succ, first, andThen_next, others, epoch]
      rfl

/-- The whole frame on the wire, and a capture of nothing begun. -/
def frameSent (s : State) : State :=
  { s with block := { s.block with txIdx := 6, rxCnt := 0, phase := .rx }, wire := s.wire ++ s.block.txBuf.toList }

/-- The sixth TXPOP opens the capture (R136). -/
theorem txPop_frameSent {s : State} (tx : s.block.phase = .tx) (start : s.block.txIdx = 0) :
    txPop (emitted 5 s) = .next (frameSent s) := by
  have position : (emitted 5 s).block.txIdx.toNat = 5 := by simp [emitted, start]
  have whole : s.block.txBuf.toList.take 5 ++ [s.block.txBuf[5]] = s.block.txBuf.toList := by
    have last : s.block.txBuf[5] = s.block.txBuf.toList[5]'(by simp) := rfl
    rw [last, List.take_concat_get']
    exact List.take_of_length_le (by simp)
  rw [txPop_of_tx (s := emitted 5 s) tx (by omega), advanceFrame_last position, frameSent, ← whole, ← List.append_assoc]
  simp only [position]
  simp [emitted, start]

/-- Five TXPOPs with any response bytes between them, and the sixth: the frame is out and no byte was captured. -/
theorem runSteps_frame {xs rest : List Input} {s : State} (tx : s.block.phase = .tx) (start : s.block.txIdx = 0)
    (channel : ∀ x ∈ xs, x = .txPop ∨ ∃ k, x = .rxByte k) (five : popCount xs = 5)
    (pending : s.pending = xs ++ .txPop :: rest) :
    runSteps (xs.length + 1) s = .next (scheduled rest (s.epoch + (xs.length + 1)) (frameSent s)) := by
  have before := runSteps_emitting (rest := .txPop :: rest) tx channel (by simp [start, five]) pending
  rw [five] at before
  have sixth : step (scheduled (.txPop :: rest) (s.epoch + xs.length) (emitted 5 s)) =
      .next (frameSent (scheduled rest (s.epoch + xs.length + 1) s)) :=
    (step_cons (s := scheduled (.txPop :: rest) (s.epoch + xs.length) (emitted 5 s)) rfl
      ((enabled_txPop_iff _).2 tx)).trans (txPop_frameSent (s := scheduled rest (s.epoch + xs.length + 1) s) tx start)
  rw [runSteps_add, before, andThen_next, runSteps_succ, sixth]
  rfl

/-- Settles O34: in TX nothing is captured yet, so the frame's run leaves RXCNT as it is. -/
theorem staleInputIsDropped : Obligations.StaleInputIsDropped := by
  intro s xs rest inv tx start channel five pending
  obtain ⟨_, nothing_captured⟩ := inv.tx_position tx
  have run := runSteps_frame tx start channel five pending
  rw [frameSent, ← nothing_captured] at run
  exact run

/-! ### Whole transactions -/

theorem runSteps_send6 {rest : List Input} {s : State} (tx : s.block.phase = .tx) (start : s.block.txIdx = 0)
    (pending : s.pending = send6 ++ rest) :
    runSteps 6 s = .next (scheduled rest (s.epoch + 6) (frameSent s)) :=
  runSteps_frame (xs := List.replicate 5 .txPop) tx start (fun _ pop => .inl (List.eq_of_mem_replicate pop)) rfl pending

/-- A request that ENCODE accepts, its six TXPOPs and its response bytes: the bytes arrive at a capture of nothing with
the frame on the wire. -/
theorem runSteps_transaction {c : ReqClass} {t a b : Byte} {ks : List Byte} {rest : List Input} {s : State}
    (ready : Ready s)
    (accepted : ∀ u, Ready u → encodeRequest t a b u = .next (acceptRequest c t a b u))
    (pending : s.pending = .hostWord (encodeWord t a b) :: (send6 ++ rxInputs ks ++ rest)) :
    runSteps (1 + 6 + ks.length) s =
      rxSeq ks (scheduled rest (s.epoch + (1 + 6 + ks.length)) (frameSent (acceptRequest c t a b s))) := by
  have notFault := ne_fault_of_ready ready
  rw [List.append_assoc] at pending
  have first : step s = .next (acceptRequest c t a b (consume (send6 ++ (rxInputs ks ++ rest)) s)) :=
    (step_cons pending (bne_iff_ne.2 notFault)).trans ((runHostWord_encodeWord t a b _).trans (accepted _ ready))
  have frame := runSteps_send6 (s := acceptRequest c t a b (consume (send6 ++ (rxInputs ks ++ rest)) s)) rfl rfl rfl
  rw [runSteps_add, Nat.add_comm 1 6, runSteps_succ, first, andThen_next, frame, andThen_next,
    runSteps_rxInputs (rest := rest) rfl]
  have epoch : s.epoch + (1 + 6 + ks.length) = s.epoch + 1 + 6 + ks.length := by omega
  rw [epoch]
  rfl

/-- The registers R155 gives a command's acknowledgement. -/
theorem decodeCommand_registers (k : Byte) :
    (decodeCommand k).kind = (if k = 0x6F then .ackOk else .ackErr) ∧
    (decodeCommand k).val = if k = 0x6F then 0x000000 else k.setWidth 24 := by
  by_cases ok : k = 0x6F
  · rw [ok]
    exact ⟨rfl, rfl⟩
  · rw [decodeCommand_of_ne ok, if_neg ok, if_neg ok]
    exact ⟨rfl, rfl⟩

/-- Settles O35: the one response byte arrives at the capture the frame opened. -/
theorem commandTransaction : Obligations.CommandTransaction := by
  intro s t a b k rest ready lower upper pending
  have command : isCommandType t = true := (isCommandType_iff t).2 ⟨lower, upper⟩
  have run := runSteps_transaction (c := .cmd) (ks := [k]) ready
    (fun _ ready => encodeRequest_command ready command a b) pending
  have byte := rxByte_cmd (s := scheduled rest (s.epoch + 8) (frameSent (acceptRequest .cmd t a b s))) k rfl rfl rfl rfl
  obtain ⟨kind, val⟩ := decodeCommand_registers k
  rw [kind, val] at byte
  exact run.trans (rxSeq_singleton byte)

/-- Settles O36: the type is a query's, so it has a kind, and the seven bytes arrive at the capture the frame opened. -/
theorem queryTransaction : Obligations.QueryTransaction := by
  intro s t r rest ready lower upper pending
  have query : isQueryType t = true := (isQueryType_iff t).2 ⟨lower, upper⟩
  obtain ⟨kind, defined⟩ := Option.isSome_iff_exists.1 ((kindOf_isSome_iff s.cfg t).2 query)
  have run := runSteps_transaction (c := .qry) (ks := r.toList) ready (fun _ ready => encodeRequest_query ready query)
    pending
  rw [Vector.length_toList] at run
  obtain ⟨k, v, outcome, bytes⟩ := queryResponseDecoded
    (scheduled rest (s.epoch + 14) (frameSent (acceptRequest .qry t 0 0 s))) kind r rfl rfl rfl rfl defined
  exact ⟨kind, k, v, defined, outcome, run.trans bytes⟩

end Sys2Proof.Machine

/-! Noninterference, twice by one argument: a relation of states that each shared operation keeps is kept by the
machine's step. Two relations have this: the states differ in the formatter's registers only (10_state.md R33), and the
states agree on every register that has a value (93_implementation_defined.md U1 to U3). -/

namespace Sys2Proof.Machine

open Sys2Proof.Safety Sys2Proof.Claims

/-! ### Relations that every step keeps -/

/-- Where the first outcome is a next state the second is one related to it. -/
def Follows (R : State → State → Prop) (o o' : Out) : Prop := ∀ s, o = .next s → ∃ t, o' = .next t ∧ R s t

/-- The machine's choice is the same of related states, and each shared operation keeps the relation. -/
structure KeptByOps (R : State → State → Prop) : Prop where
  phase : ∀ {s t}, R s t → s.block.phase = t.block.phase
  pending : ∀ {s t}, R s t → s.pending = t.pending
  consume : ∀ {s t} rest, R s t → R (consume rest s) (consume rest t)
  raiseFault : ∀ {s t} code w, R s t → R (raiseFault code w s) (raiseFault code w t)
  acceptRequest : ∀ {s t} c ty a b, R s t → R (acceptRequest c ty a b s) (acceptRequest c ty a b t)
  abortTransaction : ∀ {s t}, R s t → R (abortTransaction s) (abortTransaction t)
  writeFormat : ∀ {s t} p0 p1, R s t → R (writeFormat p0 p1 s) (writeFormat p0 p1 t)
  txPop : ∀ {s t}, R s t → Follows R (txPop s) (txPop t)
  rxByte : ∀ {s t} k, R s t → Follows R (rxByte k s) (rxByte k t)
  resetBlock : ∀ {s t}, R s t → R (resetBlock s) (resetBlock t)

section Follows

variable {R : State → State → Prop}

theorem follows_next {s t : State} (related : R s t) : Follows R (.next s) (.next t) := by
  intro s' run
  cases run
  exact ⟨t, rfl, related⟩

theorem follows_fault (r : Fault) (o : Out) : Follows R (.fault r) o := by
  intro s run
  cases run

theorem follows_refused (r : Refusal) (o : Out) : Follows R (.refused r) o := by
  intro s run
  cases run

theorem follows_ite {c : Prop} [Decidable c] {o o' p p' : Out} (yes : c → Follows R o o') (no : ¬ c → Follows R p p') :
    Follows R (if c then o else p) (if c then o' else p') := by
  by_cases holds : c
  · rw [if_pos holds, if_pos holds]
    exact yes holds
  · rw [if_neg holds, if_neg holds]
    exact no holds

theorem follows_hostOp {s t : State} {k l : Out} (phase : s.block.phase = t.block.phase) (rest : Follows R k l) :
    Follows R (hostOp s k) (hostOp t l) := by
  unfold hostOp
  rw [phase]
  exact follows_ite (fun _ => follows_fault _ _) fun _ => rest

/-- A capture's decode reads the request and the bytes captured only, and those when the response is complete. -/
theorem follows_afterCapture {b c : Block} {s t : State} (count : b.rxCnt = c.rxCnt) (length : b.expLen = c.expLen)
    (decode : b.rxCnt = b.expLen →
      decodeResponse s.cfg b.reqClass b.reqType (b.rxBuf.toList.take b.expLen.toNat) =
        decodeResponse t.cfg c.reqClass c.reqType (c.rxBuf.toList.take c.expLen.toNat))
    (short : R { s with block := b } { t with block := c })
    (done : ∀ r, R { s with block := finishCapture r b } { t with block := finishCapture r c }) :
    Follows R (afterCapture b s) (afterCapture c t) := by
  by_cases full : b.rxCnt = b.expLen
  · rw [afterCapture, afterCapture, if_pos full, if_pos (count.symm.trans (full.trans length)), decode full]
    cases decodeResponse t.cfg c.reqClass c.reqType (c.rxBuf.toList.take c.expLen.toNat) with
    | some r => exact follows_next (done r)
    | none => exact follows_fault _ _
  · rw [afterCapture, afterCapture, if_neg full, if_neg (by rwa [← count, ← length])]
    exact follows_next short

namespace KeptByOps

variable (kept : KeptByOps R)
include kept

theorem encodeRequest {s t : State} (ty a b : Byte) (related : R s t) :
    Follows R (encodeRequest ty a b s) (encodeRequest ty a b t) := by
  unfold Machine.encodeRequest
  refine follows_hostOp (kept.phase related) ?_
  rw [kept.phase related]
  refine follows_ite (fun _ => follows_next (kept.raiseFault _ _ related)) fun _ => ?_
  cases classify ty with
  | undefinedType code => exact follows_next (kept.raiseFault _ _ related)
  | cmd => exact follows_next (kept.acceptRequest _ _ _ _ related)
  | qry =>
    exact follows_ite (fun _ => follows_next (kept.acceptRequest _ _ _ _ related))
      fun _ => follows_next (kept.raiseFault _ _ related)

theorem fmtf {s t : State} (h : BitVec 15) (related : R s t) : Follows R (execFmtf h s) (execFmtf h t) :=
  follows_hostOp (kept.phase related) (follows_ite (fun _ => follows_next (kept.raiseFault _ _ related))
    fun _ => follows_next (kept.writeFormat _ _ related))

theorem hostWord {s t : State} (w : HostWord) (related : R s t) : Follows R (runHostWord w s) (runHostWord w t) := by
  have host {k l : Out} : Follows R k l → Follows R (hostOp s k) (hostOp t l) := follows_hostOp (kept.phase related)
  by_cases malformed : Malformed w
  · rw [runHostWord_malformed malformed, runHostWord_malformed malformed]
    exact host (follows_next (kept.raiseFault _ _ related))
  · obtain row | row | row | row | row := decodeHostWord_formed malformed <;>
      rw [runHostWord_ok row, runHostWord_ok row]
    · exact host (follows_next related)
    · exact kept.encodeRequest _ _ _ related
    · exact host (follows_next (kept.abortTransaction related))
    · exact kept.fmtf _ related
    · exact host (follows_next (kept.writeFormat _ _ related))

theorem hostRequest {s t : State} (f : FrameWord) (related : R s t) :
    Follows R (runRequest f s) (runRequest f t) := by
  by_cases markers : frameMarkersOk f = true
  · rw [runRequest_of_markers markers, runRequest_of_markers markers]
    exact kept.encodeRequest _ _ _ related
  · rw [runRequest_without_markers markers]
    exact follows_refused _ _

theorem rxSeq {s t : State} (ks : List Byte) (related : R s t) : Follows R (rxSeq ks s) (rxSeq ks t) := by
  induction ks generalizing s t with
  | nil => exact follows_next related
  | cons k ks ih =>
    intro s' run
    obtain ⟨m, byte, later⟩ := rxSeq_next_cons run
    obtain ⟨m', byte', related'⟩ := kept.rxByte k related m byte
    rw [rxSeq_cons_next byte']
    exact ih related' s' later

theorem runInput {s t : State} (x : Input) (related : R s t) : Follows R (runInput x s) (runInput x t) := by
  cases x with
  | hostWord w => exact kept.hostWord w related
  | hostRequest f => exact kept.hostRequest f related
  | txPop => exact kept.txPop related
  | rxByte k => exact kept.rxByte k related
  | rxResult g =>
    change Follows R (runResult g s) (runResult g t)
    rw [runResult_eq, runResult_eq]
    exact kept.rxSeq _ related
  | reset => exact follows_next (kept.resetBlock related)

/-- Related states take the same step, to related states. -/
theorem step {s t : State} (related : R s t) : Follows R (step s) (step t) := by
  intro s' run
  obtain ⟨x, rest, taken, _, run⟩ := step_next run
  rw [kept.phase related, kept.pending related] at taken
  rw [step_of_taken taken]
  exact kept.runInput x (kept.consume rest related) s' run

end KeptByOps

end Follows

/-! ### The formatter's registers -/

/-- The state with other formatter registers. -/
def reformatted (p0 p1 : Byte) (v : Bool) (s : State) : State :=
  { s with block := { s.block with fmtP0 := p0, fmtP1 := p1, fmtValid := v } }

theorem sameButFormat_txPop {s t : State} (same : SameButFormat s t) : Follows SameButFormat (txPop s) (txPop t) := by
  obtain ⟨p0, p1, v, rfl⟩ := same
  intro s' pop
  obtain ⟨tx, position, rfl⟩ := txPop_next pop
  refine ⟨_, txPop_of_tx (s := reformatted p0 p1 v s) tx position, p0, p1, v, ?_⟩
  by_cases last : s.block.txIdx.toNat = 5
  · rw [advanceFrame_last last, advanceFrame_last (b := (reformatted p0 p1 v s).block) last]
    rfl
  · have before : s.block.txIdx.toNat < 5 := by omega
    rw [advanceFrame_before before, advanceFrame_before (b := (reformatted p0 p1 v s).block) before]
    rfl

theorem sameButFormat_rxByte {s t : State} (k : Byte) (same : SameButFormat s t) :
    Follows SameButFormat (rxByte k s) (rxByte k t) := by
  obtain ⟨p0, p1, v, rfl⟩ := same
  change Follows SameButFormat (rxByte k s) (rxByte k (reformatted p0 p1 v s))
  by_cases rx : s.block.phase = .rx
  · by_cases room : s.block.rxCnt.toNat < 7
    · rw [rxByte_of_rx rx room, rxByte_of_rx (s := reformatted p0 p1 v s) rx room]
      exact follows_afterCapture rfl rfl (fun _ => rfl) ⟨p0, p1, v, rfl⟩ fun _ => ⟨p0, p1, v, rfl⟩
    · intro s' run
      obtain ⟨notRx, _⟩ | ⟨_, in_buffer, _⟩ := rxByte_next run
      · exact absurd rx notRx
      · exact absurd in_buffer room
  · rw [rxByte_of_ne rx, rxByte_of_ne (s := reformatted p0 p1 v s) rx]
    exact follows_next ⟨p0, p1, v, rfl⟩

theorem sameButFormat_abortTransaction {s t : State} (same : SameButFormat s t) :
    SameButFormat (abortTransaction s) (abortTransaction t) := by
  obtain ⟨p0, p1, v, rfl⟩ := same
  refine ⟨p0, p1, v, ?_⟩
  simp only [abortTransaction]
  split <;> rfl

theorem sameButFormat_kept : KeptByOps SameButFormat where
  phase := by rintro s _ ⟨p0, p1, v, rfl⟩; rfl
  pending := by rintro s _ ⟨p0, p1, v, rfl⟩; rfl
  consume := by rintro s _ rest ⟨p0, p1, v, rfl⟩; exact ⟨p0, p1, v, rfl⟩
  raiseFault := by rintro s _ code w ⟨p0, p1, v, rfl⟩; exact ⟨p0, p1, v, rfl⟩
  acceptRequest := by rintro s _ c ty a b ⟨p0, p1, v, rfl⟩; exact ⟨p0, p1, v, rfl⟩
  abortTransaction := sameButFormat_abortTransaction
  writeFormat := by rintro s _ a b ⟨p0, p1, v, rfl⟩; exact ⟨a, b, true, rfl⟩
  txPop := sameButFormat_txPop
  rxByte := sameButFormat_rxByte
  resetBlock := by rintro s _ ⟨p0, p1, v, rfl⟩; exact ⟨0, 0, false, rfl⟩

/-- Settles O47: no shared operation reads the formatter's registers, and only FMTF, FMTD and RESET write them. -/
theorem formatterDoesNotInterfere : Obligations.FormatterDoesNotInterfere :=
  fun _ _ s' same run => sameButFormat_kept.step same s' run

/-! ### Registers without a value -/

/-- `SameView`, with the request's registers holding a value wherever a step reads them. -/
structure Alike (s t : State) : Prop where
  same : SameDefined s.block t.block
  cfg : s.cfg = t.cfg
  pending : s.pending = t.pending
  wire : s.wire = t.wire
  epoch : s.epoch = t.epoch
  accepted : InFlight s → s.block.expLen ≠ 0

theorem Alike.sameView {s t : State} (alike : Alike s t) : SameView s t :=
  ⟨alike.same, alike.cfg, alike.pending, alike.wire, alike.epoch⟩

theorem sameDefined_advanceFrame {b c : Block} (same : SameDefined b c) :
    SameDefined (advanceFrame b) (advanceFrame c) := by
  unfold advanceFrame
  rw [same.txIdx]
  split
  · exact { same with phase := rfl, txIdx := rfl, rxCnt := rfl, captured := rfl }
  · exact { same with txIdx := rfl }

theorem sameDefined_finishCapture {b c : Block} (r : Result) (same : SameDefined b c) :
    SameDefined (finishCapture r b) (finishCapture r c) :=
  { same with phase := rfl, resKind := rfl, resVal := rfl }

theorem take_set_congr {buf buf' : Vector Byte 7} {n m : BitVec 3} (same : n = m)
    (bytes : buf.toList.take n.toNat = buf'.toList.take n.toNat) (k : Byte) (room : n.toNat < 7) (room' : m.toNat < 7) :
    (buf.set n.toNat k room).toList.take (n + 1).toNat = (buf'.set m.toNat k room').toList.take (n + 1).toNat := by
  subst same
  rw [toNat_add_one_of_lt room, take_set_toList, take_set_toList, bytes]

/-- A byte captured at the same place after the same bytes. -/
theorem sameDefined_capturing {b c : Block} (same : SameDefined b c) (k : Byte) (room : b.rxCnt.toNat < 7)
    (room' : c.rxCnt.toNat < 7) :
    SameDefined { b with rxBuf := b.rxBuf.set b.rxCnt.toNat k room, rxCnt := b.rxCnt + 1 }
      { c with rxBuf := c.rxBuf.set c.rxCnt.toNat k room', rxCnt := c.rxCnt + 1 } :=
  { same with
    rxCnt := congrArg (· + 1) same.rxCnt
    captured := take_set_congr same.rxCnt same.captured k room room' }

theorem txOffer_eq {b c : Block} (same : SameDefined b c) (accepted : b.phase = .tx → b.expLen ≠ 0) :
    txOffer b = txOffer c := by
  by_cases tx : b.phase = .tx
  · obtain ⟨_, _, _, _, frame⟩ := same.request (accepted tx)
    rw [txOffer, txOffer, ← same.phase, ← same.txIdx, ← frame]
  · rw [txOffer_of_ne tx, txOffer_of_ne (same.phase ▸ tx)]

theorem txPop_of_offer {s : State} {k : Byte} (offer : txOffer s.block = some k) :
    txPop s = .next { s with block := advanceFrame s.block, wire := s.wire ++ [k] } := by
  have tx : s.block.phase = .tx := by
    by_contra notTx
    rw [txOffer_of_ne notTx] at offer
    cases offer
  rw [txPop, if_pos tx, offer]

/-- Steps that write the block only. -/
theorem Alike.of_block {s t s' t' : State} (alike : Alike s t) (same : SameDefined s'.block t'.block)
    (frame : s' = { s with block := s'.block }) (frame' : t' = { t with block := t'.block })
    (accepted : InFlight s' → s'.block.expLen ≠ 0) : Alike s' t' := by
  rw [frame, frame']
  exact { alike with same := same, accepted := accepted }

theorem alike_raiseFault {s t : State} (code : FCode) (w : HostWord) (alike : Alike s t) :
    Alike (raiseFault code w s) (raiseFault code w t) :=
  alike.of_block
    { alike.same with phase := rfl, resKind := rfl, resVal := rfl, fCode := rfl, fWord := rfl }
    rfl rfl (by simp [InFlight])

/-- An accepted request gives every register of the request a value. -/
theorem alike_acceptRequest {s t : State} (c : ReqClass) (ty a b : Byte) (alike : Alike s t) :
    Alike (acceptRequest c ty a b s) (acceptRequest c ty a b t) :=
  alike.of_block
    { alike.same with
      phase := rfl
      expLen := rfl
      txIdx := rfl
      rxCnt := rfl
      resKind := rfl
      resVal := rfl
      request := fun _ => ⟨rfl, rfl, rfl, rfl, rfl⟩
      captured := rfl }
    rfl rfl fun _ => responseLength_ne_zero c

theorem alike_abortTransaction {s t : State} (alike : Alike s t) :
    Alike (abortTransaction s) (abortTransaction t) := by
  have phase := alike.same.phase
  by_cases inFlight : InFlight s
  · have inFlight' : InFlight t := by
      unfold InFlight
      rwa [← phase]
    rw [abortTransaction_inFlight inFlight, abortTransaction_inFlight inFlight']
    exact alike.of_block { alike.same with phase := rfl, resKind := rfl, resVal := rfl } rfl rfl (by simp [InFlight])
  · have notInFlight' : ¬ InFlight t := by
      unfold InFlight
      rwa [← phase]
    rw [abortTransaction_ready inFlight, abortTransaction_ready notInFlight']
    exact alike

theorem alike_writeFormat {s t : State} (p0 p1 : Byte) (alike : Alike s t) :
    Alike (writeFormat p0 p1 s) (writeFormat p0 p1 t) :=
  alike.of_block { alike.same with fmtValid := rfl, formatted := fun _ => ⟨rfl, rfl⟩ } rfl rfl alike.accepted

theorem alike_txPop {s t : State} (alike : Alike s t) : Follows Alike (txPop s) (txPop t) := by
  intro s' pop
  obtain ⟨tx, position, rfl⟩ := txPop_next pop
  have accepted : s.block.expLen ≠ 0 := alike.accepted (.inl tx)
  have offer := (txOffer_eq alike.same fun _ => accepted).symm.trans (txOffer_of_tx tx position)
  refine ⟨_, txPop_of_offer offer, ?_⟩
  exact
    { alike with
      same := sameDefined_advanceFrame alike.same
      wire := congrArg (· ++ _) alike.wire
      accepted := fun _ => by rwa [advanceFrame_expLen] }

/-- A capture reads the request it is the response to, and the bytes captured for it. -/
theorem alike_rxByte {s t : State} (k : Byte) (alike : Alike s t) : Follows Alike (rxByte k s) (rxByte k t) := by
  have phase := alike.same.phase
  by_cases rx : s.block.phase = .rx
  · by_cases room : s.block.rxCnt.toNat < 7
    · have accepted : s.block.expLen ≠ 0 := alike.accepted (.inr rx)
      have room' : t.block.rxCnt.toNat < 7 := alike.same.rxCnt ▸ room
      have same := sameDefined_capturing alike.same k room room'
      obtain ⟨reqClass, reqType, _⟩ := same.request accepted
      rw [rxByte_of_rx rx room, rxByte_of_rx (phase ▸ rx) room']
      refine follows_afterCapture same.rxCnt same.expLen (fun full => ?decode)
        (alike.of_block same rfl rfl fun _ => accepted)
        (fun r => alike.of_block (sameDefined_finishCapture r same) rfl rfl (by simp [InFlight]))
      case decode =>
        have bytes := same.captured
        rw [full] at bytes
        rw [alike.cfg, reqClass, reqType, bytes, same.expLen]
    · intro s' run
      obtain ⟨notRx, _⟩ | ⟨_, in_buffer, _⟩ := rxByte_next run
      · exact absurd rx notRx
      · exact absurd in_buffer room
  · rw [rxByte_of_ne rx, rxByte_of_ne (phase ▸ rx)]
    exact follows_next alike

theorem sameDefined_refl (b : Block) : SameDefined b b := by
  constructor <;> simp

theorem alike_kept : KeptByOps Alike where
  phase := fun alike => alike.same.phase
  pending := Alike.pending
  consume := fun _ alike => { alike with pending := rfl, epoch := congrArg (· + 1) alike.epoch }
  raiseFault := alike_raiseFault
  acceptRequest := alike_acceptRequest
  abortTransaction := alike_abortTransaction
  writeFormat := alike_writeFormat
  txPop := alike_txPop
  rxByte := alike_rxByte
  resetBlock := fun alike => alike.of_block (sameDefined_refl _) rfl rfl (by simp [InFlight])

/-! ### What the host and the channel see -/

theorem classBit_eq {b c : Block} (same : SameDefined b c) : b.classBit = c.classBit := by
  unfold Block.classBit
  by_cases none : b.expLen = 0
  · rw [if_pos none, if_pos (same.expLen ▸ none)]
  · obtain ⟨reqClass, _⟩ := same.request none
    rw [if_neg none, if_neg (same.expLen ▸ none), reqClass]

theorem status_eq {b c : Block} (same : SameDefined b c) : b.status = c.status := by
  rw [Block.status, Block.status, same.phase, same.resKind, same.fCode, same.txIdx, same.rxCnt, same.expLen,
    classBit_eq same, same.fmtValid]

theorem readResult_eq {s t : State} (same : SameDefined s.block t.block) : readResult s = readResult t := by
  rw [readResult, readResult, same.resKind, same.resVal]

/-- Below RXCNT the bytes are the same, and at or above it both reads are one free value (R27). -/
theorem readRxBuf_eq {s t : State} (same : SameDefined s.block t.block) (epoch : s.epoch = t.epoch) (i : Fin 7) :
    readRxBuf s i = readRxBuf t i := by
  unfold readRxBuf
  rw [← same.rxCnt, epoch]
  by_cases below : i.val < s.block.rxCnt.toNat
  · rw [if_pos below, if_pos below]
    have byte := congrArg (·[i.val]?) same.captured
    simpa [List.getElem?_take_of_lt below] using byte
  · rw [if_neg below, if_neg below]

theorem readFmtP0_eq {s t : State} (same : SameDefined s.block t.block) (epoch : s.epoch = t.epoch) :
    readFmtP0 s = readFmtP0 t := by
  unfold readFmtP0
  by_cases valid : s.block.fmtValid = true
  · rw [if_pos valid, if_pos (same.fmtValid ▸ valid), (same.formatted valid).1]
  · rw [if_neg valid, if_neg (same.fmtValid ▸ valid), epoch]

theorem readFmtP1_eq {s t : State} (same : SameDefined s.block t.block) (epoch : s.epoch = t.epoch) :
    readFmtP1 s = readFmtP1 t := by
  unfold readFmtP1
  by_cases valid : s.block.fmtValid = true
  · rw [if_pos valid, if_pos (same.fmtValid ▸ valid), (same.formatted valid).2]
  · rw [if_neg valid, if_neg (same.fmtValid ▸ valid), epoch]

/-- Settles O48: each read is of registers that have a value, and each shared operation keeps it that the states agree
on those. The invariants give the request a value wherever a step reads it. -/
theorem unspecifiedRegistersNeverShow : Obligations.UnspecifiedRegistersNeverShow := by
  intro s t inv _ view
  obtain ⟨same, cfg, pending, wire, epoch⟩ := view
  have accepted : InFlight s → s.block.expLen ≠ 0 := fun inFlight => inv.request_accepted (inFlight.imp_right .inl)
  refine ⟨⟨status_eq same, readResult_eq same, same.fWord, readRxBuf_eq same epoch, readFmtP0_eq same epoch,
    readFmtP1_eq same epoch, txOffer_eq same fun tx => accepted (.inl tx)⟩, fun s' run => ?step⟩
  case step =>
    obtain ⟨t', run', alike⟩ := alike_kept.step ⟨same, cfg, pending, wire, epoch, accepted⟩ s' run
    exact ⟨t', run', alike.sameView⟩

end Sys2Proof.Machine
